-- ==== Sys2Proof/Word.lean ====
section
/-!
DEFINITION. The word types of the RGB-to-YCbCr converter core and the one enumerated operand of its
command word.  Bits are numbered from 0 at the least significant end (spec/00_scope.md R8).
-/

namespace Sys2Proof

/-- A byte of the pixel memory, one intensity in 0 to 255 (spec/20_memory.md R67). -/
abbrev Byte := BitVec 8

/-- A 32-bit word: a control register, a lookup-table entry (W_T = 32), an output sample
(W_S = 32) and a command word (spec/00_scope.md R6, spec/30_encoding.md R100). -/
abbrev Word := BitVec 32

/-- A byte offset inside the core's 64 KiB window, 0x0000 to 0xFFFF (spec/20_memory.md R60). -/
abbrev Offset := BitVec 16

/-- `which_half`, the operand H of CVT420: upper is 0 (chroma rows 0 to 3), lower is 1 (chroma rows
4 to 7) (spec/30_encoding.md R100, R102, spec/92_eei_decisions.md D22). -/
inductive Half where
  | upper
  | lower
deriving DecidableEq, Repr

/-- The number h of a half, as the pseudocode of spec/43_subsampled.md R181 uses it. -/
def Half.toNat : Half → Nat
  | .upper => 0
  | .lower => 1

end Sys2Proof
end

