-- ==== Sys2Proof/Syntax.lean ====
section
/-!
DEFINITION. The commands of the core: one constructor per row of spec/opcode_table.json, which is
the machine-readable copy of spec/30_encoding.md R101.
-/

namespace Sys2Proof

/-- A command of the core.  The only operand field of the command word is H, and only CVT420 has it
(spec/30_encoding.md R100, R102): every other operand comes from a control register. -/
inductive Instr where
  /-- NOP: complete with no effect (spec/44_control.md R200). -/
  | nop
  /-- BUILD: compute the lookup-table set (spec/40_table_builder.md R130). -/
  | build
  /-- PXY: luma of one pixel (spec/41_pixel_converter.md R155). -/
  | pxy
  /-- PXC: chroma of one pixel (spec/41_pixel_converter.md R156). -/
  | pxc
  /-- PXYCC: luma and chroma of one pixel (spec/41_pixel_converter.md R157). -/
  | pxycc
  /-- CVT444: convert one 8×8 block at full resolution (spec/42_full_resolution.md R170). -/
  | cvt444
  /-- CVT420 h: convert an 8×16 region with 2×2 chroma subsampling (spec/43_subsampled.md R181). -/
  | cvt420 (h : Half)
deriving DecidableEq, Repr

end Sys2Proof
end

