-- ==== Sys2Proof/Decode.lean ====
section
/-!
DEFINITION. The decoder and the encoder of the command word (spec/30_encoding.md R100 to R105).
The decoder is total on all 2^32 words and rejects by name.
-/

namespace Sys2Proof

/-- Why a word is not one of the eight legal words (spec/30_encoding.md R104,
spec/60_exceptions.md R211).  The core reports each of them the same way, as ILLEGAL. -/
inductive Reject where
  /-- RSV, bits [31:5], is not 0. -/
  | nonzeroRsv
  /-- H, bit [4], is 1 and OP is not 0x6. -/
  | halfSet
  /-- OP, bits [3:0], is 0x7 to 0xF. -/
  | reservedOp
deriving DecidableEq, Repr

/-- OP, bits [3:0] of the command word (spec/30_encoding.md R100). -/
def opField (w : Word) : BitVec 4 := w.extractLsb' 0 4

/-- H, bit [4] of the command word (spec/30_encoding.md R100). -/
def hField (w : Word) : BitVec 1 := w.extractLsb' 4 1

/-- RSV, bits [31:5] of the command word (spec/30_encoding.md R100). -/
def rsvField (w : Word) : BitVec 27 := w.extractLsb' 5 27

/-- The half that the bit H selects: 0 = upper, 1 = lower (spec/30_encoding.md R100). -/
def halfOfBit (b : BitVec 1) : Half := if b.toNat = 0 then .upper else .lower

/-- The bit H of a half (spec/30_encoding.md R100). -/
def bitOfHalf : Half → BitVec 1
  | .upper => 0#1
  | .lower => 1#1

/-- The opcode map with H = 0 (spec/30_encoding.md R101), for an OP other than 0x6. -/
def decodeOp (op : BitVec 4) : Except Reject Instr :=
  match op.toNat with
  | 0 => .ok .nop
  | 1 => .ok .build
  | 2 => .ok .pxy
  | 3 => .ok .pxc
  | 4 => .ok .pxycc
  | 5 => .ok .cvt444
  | _ => .error .reservedOp

/-- Decoding, in the order of the pseudocode of spec/30_encoding.md R103. -/
def decode (w : Word) : Except Reject Instr :=
  if rsvField w ≠ 0#27 then .error .nonzeroRsv
  else if opField w = 6#4 then .ok (.cvt420 (halfOfBit (hField w)))
  else if hField w ≠ 0#1 then .error .halfSet
  else decodeOp (opField w)

/-- OP of each command (spec/30_encoding.md R101). -/
def opOf : Instr → BitVec 4
  | .nop => 0x0#4
  | .build => 0x1#4
  | .pxy => 0x2#4
  | .pxc => 0x3#4
  | .pxycc => 0x4#4
  | .cvt444 => 0x5#4
  | .cvt420 _ => 0x6#4

/-- H of each command: `which_half` for CVT420, and 0 for every other OP (spec/30_encoding.md R100). -/
def hOf : Instr → BitVec 1
  | .nop => 0#1
  | .build => 0#1
  | .pxy => 0#1
  | .pxc => 0#1
  | .pxycc => 0#1
  | .cvt444 => 0#1
  | .cvt420 h => bitOfHalf h

/-- The command word of a command: RSV = 0, then H, then OP (spec/30_encoding.md R100). -/
def encode (i : Instr) : Word := (0#27 ++ hOf i) ++ opOf i

/-- The command word that `nbits` bits `w` of an opcode-table row stand for: the bits above `nbits`
are 0.  A command is one 32-bit word (spec/30_encoding.md R105), so no word has a bit above 31. -/
def tableWord (nbits w : Nat) : Option Word :=
  if w % 2 ^ nbits < 2 ^ 32 then some (BitVec.ofNat 32 (w % 2 ^ nbits)) else none

/-- The command the decoder reads from an opcode-table row's bits. -/
def decodeTableWord (nbits w : Nat) : Option Instr :=
  match tableWord nbits w with
  | none => none
  | some word =>
    match decode word with
    | .ok i => some i
    | .error _ => none

end Sys2Proof
end

