-- ==== Sys2Proof/Config.lean ====
section
/-!
DEFINITION. What the spec leaves to the platform (spec/00_scope.md R6), and the free values: the
contents that reset leaves unspecified (spec/10_state.md R40).  A free value is an opaque constant,
so nothing can be proved of it.
-/

namespace Sys2Proof.Config

/-- The legal values of the parameter N_PIX: a multiple of 4 with 128 <= N_PIX <= 16384
(spec/00_scope.md R6). -/
abbrev LegalNPix (n : Nat) : Prop := n % 4 = 0 ∧ 128 ≤ n ∧ n ≤ 16384

/-- The reference value of the OPEN parameter N_PIX (spec/00_scope.md R6).  Only `State.reset` uses
it: every other definition reads N_PIX from the state's CFG field, so a statement about all states
is about every legal N_PIX.  DESIGN CHOICE (notes/assumptions/1.md), unsafe for a statement about
`State.reset` alone. -/
def nPixReference : Nat := 1024

/-- BLOCK_BASE, the bus address of window offset 0 (spec/00_scope.md R6): OPEN, so a free value. -/
opaque blockBase : Nat

/-- The bus address of window offset `a` (spec/20_memory.md R60). -/
def busAddress (a : Offset) : Nat := blockBase + a.toNat

/-- The unspecified content of pixel-memory byte `a` after reset number `epoch`
(spec/10_state.md R40, spec/70_reset_and_hazards.md R243): any value 0 to 255. -/
opaque freePixelByte (epoch a : Nat) : Byte

/-- The unspecified value, in 0 to 255, of a sample that depends on an unwritten pixel-memory byte
(spec/70_reset_and_hazards.md R243, spec/93_implementation_defined.md U9): word `n` of output buffer
`k` (numbered as in spec/20_memory.md R69), as the block command number `draw` after reset number
`epoch` leaves it. -/
opaque freeSample (epoch draw k n : Nat) : Byte

/-- The unspecified content of word `n` of output buffer `k` (numbered as in spec/20_memory.md R69)
after reset number `epoch` (spec/10_state.md R40): any 32-bit value. -/
opaque freeBufferWord (epoch k n : Nat) : Word

/-- The unspecified content of entry `i` of lookup table `t` (numbered as in spec/20_memory.md R70)
after reset number `epoch` (spec/10_state.md R34, R40): any 32-bit value. -/
opaque freeTableWord (epoch t i : Nat) : Word

end Sys2Proof.Config
end

