-- ==== Sys2Proof/Machine/Bus.lean ====
section
/-!
DEFINITION. The types of the host's side of the machine: bus accesses and their responses
(spec/20_memory.md R60), the host-script notation (spec/30_encoding.md R107, R108), the host agent
that runs a script, and the turns that order the host's accesses, the engine's completions and
reset (spec/60_exceptions.md R219).
-/

namespace Sys2Proof.Machine

/-- One single access of the host: a byte offset in the window, a width in bytes and, for a write,
the data value, whose low `width` bytes are the bytes written (spec/20_memory.md R60).  The width
is any number: one other than 1, 2 and 4 gets a BUSERR (spec/60_exceptions.md R216 cause 1). -/
inductive Access where
  | read (offset : Offset) (width : Nat)
  | write (offset : Offset) (width : Nat) (data : Word)
deriving DecidableEq, Repr

/-- The byte offset of an access. -/
def Access.offset : Access → Offset
  | .read a _ => a
  | .write a _ _ => a

/-- The width of an access in bytes. -/
def Access.width : Access → Nat
  | .read _ w => w
  | .write _ w _ => w

/-- Whether an access is a write. -/
def Access.isWrite : Access → Bool
  | .read _ _ => false
  | .write _ _ _ => true

/-- The one response each access gets (spec/20_memory.md R60). -/
inductive Response where
  /-- OK of a read, with the data value, zero-extended to 32 bits when the width is 1 or 2. -/
  | data (v : Word)
  /-- OK of a write. -/
  | ok
  /-- BUSERR: the core took no action and gives no data (spec/20_memory.md R62). -/
  | buserr
deriving DecidableEq, Repr

/-- The causes of a BUSERR, in the order they are checked (spec/60_exceptions.md R216).  The
response is the same whichever applies. -/
inductive BusCause where
  /-- Cause 1: the width is not 1, 2 or 4, or the access is misaligned. -/
  | widthOrAlignment
  /-- Cause 2: the offset is in a reserved range. -/
  | reservedOffset
  /-- Cause 3: the width is not 4 outside the pixel memory. -/
  | notWordAccess
  /-- Cause 4: a write to a read-only location. -/
  | readOnly
  /-- Cause 5: a read of a lookup table while TV = 0. -/
  | tableNotBuilt
  /-- Cause 6: BUSY = 1 and neither a read of STATUS nor a write of CMD. -/
  | busy
deriving DecidableEq, Repr

/-- The control registers, at window offsets 0x0000 to 0x0023 (spec/10_state.md R23). -/
inductive Reg where
  | cmd
  | status
  | pixBase
  | pixStride
  | pixin
  | resY
  | resCb
  | resCr
  | cfg
deriving DecidableEq, Repr

/-- The six output sample buffers, in the order of spec/20_memory.md R69. -/
inductive BufId where
  | yb0
  | yb1
  | yb2
  | yb3
  | cb
  | cr
deriving DecidableEq, Repr

/-- The eight lookup tables, in the order of spec/10_state.md R33. -/
inductive TableId where
  | yr
  | yg
  | yb
  | cbR
  | cbG
  | cbB
  | crG
  | crB
deriving DecidableEq, Repr

/-- What a window offset names (spec/20_memory.md R61). -/
inductive Place where
  /-- A control register. -/
  | reg (r : Reg)
  /-- Word `n` of an output buffer. -/
  | buffer (k : BufId) (n : Fin 64)
  /-- Entry `i` of a lookup table. -/
  | table (t : TableId) (i : Fin 256)
  /-- The pixel memory, at byte offset `a` from its start. -/
  | pixels (a : Nat)
  /-- A reserved offset. -/
  | reserved
deriving DecidableEq, Repr

/-- One line of a host program as the host executes it: a bus access, or the host-side branch
`BNZ v, mask, label` with its label resolved to a line number (spec/30_encoding.md R107). -/
inductive Line where
  | access (a : Access)
  | bnz (mask : Word) (target : Nat)
deriving DecidableEq, Repr

/-- One line of host-script source (spec/30_encoding.md R107, R108).  Labels are numbers.  A comment
and a stated value `-> v` are not lines: neither has an effect. -/
inductive Src where
  /-- `W32 off, val`, `W16 off, val` or `W8 off, val`: width 4, 2 or 1. -/
  | write (width : Nat) (offset : Offset) (val : Word)
  /-- `RD32 off`, `RD16 off` or `RD8 off`: width 4, 2 or 1. -/
  | read (width : Nat) (offset : Offset)
  /-- `label:` -/
  | label (l : Nat)
  /-- `BNZ v, mask, label` -/
  | bnz (mask : Word) (l : Nat)
  /-- `NOP`, `BUILD`, `PXY`, `PXC`, `PXYCC`, `CVT444` or `CVT420 h`. -/
  | cmd (i : Instr)
  /-- `SETPIX r, g, b` -/
  | setpix (r g b : Nat)
  /-- `SETGEOM base, stride` -/
  | setgeom (base stride : Nat)
  /-- `WAIT` -/
  | wait
deriving DecidableEq, Repr

/-- The host: a program, the line it executes next, `v` (the last value it read) and the responses
it has had, the newest first (spec/00_scope.md R4, spec/30_encoding.md R107).  None of this is
state of the core (spec/10_state.md R20): the model holds it because the host issues the accesses.
See notes/assumptions/2.md. -/
structure HostAgent where
  script    : List Line
  pos       : Nat
  v         : Word
  responses : List Response
deriving DecidableEq, Repr

/-- Whose event comes next: the host's next line, the engine's completion, or the reset input
(spec/20_memory.md R73, spec/60_exceptions.md R219, spec/70_reset_and_hazards.md R246). -/
inductive Turn where
  | host
  | engine
  | reset
deriving DecidableEq, Repr

end Sys2Proof.Machine
end

