-- ==== Sys2Proof/Machine/State.lean ====
section
/-!
DEFINITION. The state of the machine as plain data (spec/10_state.md R20), the reasons a step can
stop, and the state after reset (spec/10_state.md R40).
-/

namespace Sys2Proof.Machine

/-- A pixel triple: three intensities, each in 0 to 255 because each is a byte
(spec/10_state.md R29, spec/20_memory.md R67). -/
structure Pixel where
  r : Byte
  g : Byte
  b : Byte
deriving DecidableEq, Repr

/-- The outcome code of a command, STATUS.ERR: the values 4 to 15 are never produced
(spec/10_state.md R26, spec/60_exceptions.md R211). -/
inductive ErrCode where
  /-- 0: the command completed and performed its operation. -/
  | ok
  /-- 1: a reserved OP, a non-zero RSV, or H = 1 with OP other than 0x6. -/
  | illegal
  /-- 2: a conversion command while TV = 0. -/
  | notBuilt
  /-- 3: a block command whose pixels do not all lie in the pixel memory. -/
  | bounds
deriving DecidableEq, Repr

/-- A lookup table: 256 entries of 32-bit two's complement (spec/10_state.md R33). -/
abbrev Table := Vector Word 256

/-- The lookup-table set (spec/10_state.md R33).  `cbB` is shared: it is the B contribution to Cb
and the R contribution to Cr (spec/40_table_builder.md R136). -/
structure Tables where
  yr  : Table
  yg  : Table
  yb  : Table
  cbR : Table
  cbG : Table
  cbB : Table
  crG : Table
  crB : Table
deriving DecidableEq, Repr

/-- An output sample buffer: 64 words, word n at block row n // 8 and column n mod 8
(spec/10_state.md R35). -/
abbrev Buffer := Vector Word 64

/-- The six output sample buffers (spec/10_state.md R35). -/
structure Buffers where
  yb0 : Buffer
  yb1 : Buffer
  yb2 : Buffer
  yb3 : Buffer
  cb  : Buffer
  cr  : Buffer
deriving DecidableEq, Repr

/-- The pixel memory (spec/10_state.md R36): the bytes written since reset, keyed by their byte offset
from the start of the pixel memory, in strictly rising order.  An unlisted byte is one that nothing
has written since reset: it reads as "no value", which a read of the machine turns into the free
value of that byte (notes/assumptions/3.md). -/
abbrev Memory := List Host.Cell

/-- The canonical form: the keys rise strictly.  Every listed byte is a value, and an unlisted byte
reads as no value, so no entry equals what an unlisted byte reads as. -/
def Memory.wf : Memory → Bool
  | [] => true
  | [_] => true
  | (a, _) :: (b, v) :: rest => decide (a < b) && Memory.wf ((b, v) :: rest)

/-- The state of the machine.  The fields down to `pixMem` are the core's (spec/10_state.md R20); the
last four are the model's own: the two counters of the free values, the host agent, and the order
of the turns to come (notes/assumptions/2.md, notes/assumptions/3.md, notes/assumptions/4.md). -/
structure State where
  /-- CUR: the command word most recently accepted (spec/10_state.md R37). -/
  cur       : Word
  /-- STATUS.BUSY: 1 from a command's acceptance until its completion (spec/10_state.md R25). -/
  busy      : Bool
  /-- STATUS.TV: 1 once a BUILD has completed since reset (spec/10_state.md R34). -/
  tv        : Bool
  /-- STATUS.OVR: a CMD write was discarded (spec/60_exceptions.md R217). -/
  ovr       : Bool
  /-- STATUS.ERR: the outcome code of the most recently completed command (spec/10_state.md R26). -/
  err       : ErrCode
  /-- PIX_BASE.BASE, the implemented bits [15:0] of PIX_BASE (spec/10_state.md R27, R32). -/
  pixBase   : BitVec 16
  /-- PIX_STRIDE.STRIDE, the implemented bits [15:0] of PIX_STRIDE (spec/10_state.md R28, R32). -/
  pixStride : BitVec 16
  /-- PIXIN.R, PIXIN.G and PIXIN.B, the implemented bits [23:0] of PIXIN (spec/10_state.md R29, R32). -/
  pixin     : Pixel
  /-- RES_Y (spec/10_state.md R31). -/
  resY      : Word
  /-- RES_CB (spec/10_state.md R31). -/
  resCb     : Word
  /-- RES_CR (spec/10_state.md R31). -/
  resCr     : Word
  /-- CFG.NPIX, the parameter N_PIX: nothing writes it (spec/10_state.md R30, notes/assumptions/1.md). -/
  nPix      : Nat
  /-- The lookup-table set (spec/10_state.md R33). -/
  tables    : Tables
  /-- The output sample buffers (spec/10_state.md R35). -/
  bufs      : Buffers
  /-- The pixel memory (spec/10_state.md R36). -/
  pixMem    : Memory
  /-- The model's own: how many resets came before.  It picks the free values that a reset leaves. -/
  epoch     : Nat
  /-- The model's own: how many block commands have written their buffers since reset.  It picks the
  free values of the samples that depend on an unwritten byte. -/
  draws     : Nat
  /-- The model's own: the host agent. -/
  host      : HostAgent
  /-- The model's own: whose turns come next.  When the list is empty the engine moves while BUSY = 1,
  and else the host. -/
  turns     : List Turn
deriving DecidableEq, Repr

/-- The reasons the machine stops with a fault.  There are none: "No behaviour of this core is stuck"
(spec/93_implementation_defined.md), every error of a command is an outcome code in STATUS
(spec/60_exceptions.md R211), which a next state holds, and every error of an access is a BUSERR
response (spec/60_exceptions.md R216), which the host's log holds.  The type is empty, so nothing
raises a fault; this is exact, neither a safe nor an unsafe difference. -/
inductive Fault where
deriving DecidableEq, Repr

/-- The reasons there is no meaning for an instruction. -/
inductive Refusal where
  /-- Raised only by an arm of `exec` that has no meaning yet, of which there is none.  Safe: the model
  stops where the core goes on. -/
  | notModelled (mnemonic : String)
deriving DecidableEq, Repr

/-- A lookup table with entry `i` given by `f`. -/
def tabulateTable (f : Fin 256 → Word) : Table := ⟨⟨(List.finRange 256).map f⟩, by simp⟩

/-- An output buffer with word `n` given by `f`. -/
def tabulateBuffer (f : Fin 64 → Word) : Buffer := ⟨⟨(List.finRange 64).map f⟩, by simp⟩

/-- The unspecified table set after reset number `epoch` (spec/10_state.md R40). -/
def freeTables (epoch : Nat) : Tables where
  yr  := tabulateTable fun i => Config.freeTableWord epoch 0 i
  yg  := tabulateTable fun i => Config.freeTableWord epoch 1 i
  yb  := tabulateTable fun i => Config.freeTableWord epoch 2 i
  cbR := tabulateTable fun i => Config.freeTableWord epoch 3 i
  cbG := tabulateTable fun i => Config.freeTableWord epoch 4 i
  cbB := tabulateTable fun i => Config.freeTableWord epoch 5 i
  crG := tabulateTable fun i => Config.freeTableWord epoch 6 i
  crB := tabulateTable fun i => Config.freeTableWord epoch 7 i

/-- The unspecified output buffers after reset number `epoch` (spec/10_state.md R40). -/
def freeBuffers (epoch : Nat) : Buffers where
  yb0 := tabulateBuffer fun i => Config.freeBufferWord epoch 0 i
  yb1 := tabulateBuffer fun i => Config.freeBufferWord epoch 1 i
  yb2 := tabulateBuffer fun i => Config.freeBufferWord epoch 2 i
  yb3 := tabulateBuffer fun i => Config.freeBufferWord epoch 3 i
  cb  := tabulateBuffer fun i => Config.freeBufferWord epoch 4 i
  cr  := tabulateBuffer fun i => Config.freeBufferWord epoch 5 i

/-- A host with no program. -/
def HostAgent.idle : HostAgent := { script := [], pos := 0, v := 0, responses := [] }

/-- The state after reset number `epoch` of a core with N_PIX = `n` (spec/10_state.md R40,
spec/70_reset_and_hazards.md R240), with the given host and turns: reset of the core changes
neither. -/
def State.resetWith (n epoch : Nat) (host : HostAgent) (turns : List Turn) : State where
  cur       := 0
  busy      := false
  tv        := false
  ovr       := false
  err       := .ok
  pixBase   := 0
  pixStride := 0
  pixin     := ⟨0, 0, 0⟩
  resY      := 0
  resCb     := 0
  resCr     := 0
  nPix      := n
  tables    := freeTables epoch
  bufs      := freeBuffers epoch
  pixMem    := []
  epoch     := epoch
  draws     := 0
  host      := host
  turns     := turns

/-- The machine right after reset, with N_PIX at its reference value, no host program loaded and no
turns fixed. -/
def State.reset : State := State.resetWith Config.nPixReference 0 .idle []

end Sys2Proof.Machine
end

