-- ==== Sys2Proof/Machine/Ops.lean ====
section
/-!
DEFINITION. The shared operations: completing a command and raising an error, accepting and
discarding a command word, the pixel memory, the buffers and the tables by number, and the writes
of the control registers.
-/

namespace Sys2Proof.Machine

/-! ## Completion and errors

The only "entry" of this core is a command's completion: it saves no state and has no vector, and
there is no return operation (spec/60_exceptions.md R220, R221). -/

/-- The end of a command: it writes STATUS.ERR and clears STATUS.BUSY, and nothing else
(spec/60_exceptions.md R212, R220). -/
def State.complete (c : ErrCode) (s : State) : State := { s with busy := false, err := c }

/-- `raise E(code)`: ends the command in progress with no effect except on STATUS
(spec/60_exceptions.md R212). -/
def State.raise (c : ErrCode) (s : State) : Host.Outcome State Fault Refusal := .next (s.complete c)

/-- A command whose checks pass and whose effect is `s`: ERR becomes 0 and BUSY is cleared
(spec/70_reset_and_hazards.md R246). -/
def State.succeed (s : State) : Host.Outcome State Fault Refusal := .next (s.complete .ok)

/-! ## Accepting a command -/

/-- A CMD write while BUSY = 0 accepts the command: CUR takes the word, BUSY becomes 1 and OVR
becomes 0 (spec/10_state.md R24). -/
def State.accept (w : Word) (s : State) : State := { s with cur := w, busy := true, ovr := false }

/-- A CMD write while BUSY = 1 is discarded and sets OVR (spec/60_exceptions.md R217). -/
def State.overrun (s : State) : State := { s with ovr := true }

/-- The command word that the engine's completion decodes (spec/30_encoding.md R103). -/
def State.fetchWord (s : State) : Word := s.cur

/-! ## Writes of the other state -/

/-- The table set takes the contents `t`, and TV becomes 1 (spec/10_state.md R34). -/
def State.setTables (t : Tables) (s : State) : State := { s with tables := t, tv := true }

/-- A block command's samples are written: the output buffers take the contents `b`, and the free
samples of the next block command are new ones (notes/assumptions/3.md). -/
def State.setBufs (b : Buffers) (s : State) : State := { s with bufs := b, draws := s.draws + 1 }

/-- RES_Y takes the word `y` (spec/10_state.md R31). -/
def State.setResY (y : Word) (s : State) : State := { s with resY := y }

/-- RES_CB and RES_CR take the words `cb` and `cr` (spec/10_state.md R31). -/
def State.setResC (cb cr : Word) (s : State) : State := { s with resCb := cb, resCr := cr }

/-- PIX_BASE takes the implemented bits [15:0] of a written word (spec/10_state.md R27, R32). -/
def State.setPixBase (v : Word) (s : State) : State := { s with pixBase := v.extractLsb' 0 16 }

/-- PIX_STRIDE takes the implemented bits [15:0] of a written word (spec/10_state.md R28, R32). -/
def State.setPixStride (v : Word) (s : State) : State := { s with pixStride := v.extractLsb' 0 16 }

/-- PIXIN takes the implemented bits [23:0] of a written word: R is [7:0], G is [15:8] and B is
[23:16] (spec/10_state.md R29, R32). -/
def State.setPixin (v : Word) (s : State) : State :=
  { s with pixin := ⟨v.extractLsb' 0 8, v.extractLsb' 8 8, v.extractLsb' 16 8⟩ }

/-- The pixel memory takes the contents `m`. -/
def State.setPixMem (m : Memory) (s : State) : State := { s with pixMem := m }

/-- The host agent becomes `h`. -/
def State.setHost (h : HostAgent) (s : State) : State := { s with host := h }

/-- The turns to come become `ts`. -/
def State.setTurns (ts : List Turn) (s : State) : State := { s with turns := ts }

/-! ## The pixel memory -/

/-- The byte listed at `a`, or no value if nothing has written it since reset. -/
def Memory.get? : Memory → Nat → Option Byte
  | [], _ => none
  | (k, b) :: rest, a => if a = k then some b else if a < k then none else Memory.get? rest a

/-- The memory with byte `b` at `a`. -/
def Memory.set : Memory → Nat → Byte → Memory
  | [], a, b => [(a, b)]
  | (k, c) :: rest, a, b =>
    if a < k then (a, b) :: (k, c) :: rest
    else if a = k then (a, b) :: rest
    else (k, c) :: Memory.set rest a b

/-- MemWrite(a, n, v): the n bytes of `v` from `a` up, the lowest byte first
(spec/00_scope.md R9, spec/20_memory.md R65). -/
def Memory.write (m : Memory) (a : Nat) : Nat → Nat → Memory
  | 0, _ => m
  | n + 1, v => Memory.write (m.set a (BitVec.ofNat 8 v)) (a + 1) n (v / 256)

/-- The byte at offset `a` if the host has written it since reset. -/
def State.byte? (s : State) (a : Nat) : Option Byte := Memory.get? s.pixMem a

/-- The pixel-memory byte at offset `a`: the byte last written, or the free value of an unwritten
byte (spec/20_memory.md R66, spec/70_reset_and_hazards.md R243). -/
def State.byteAt (s : State) (a : Nat) : Byte :=
  (s.byte? a).getD (Config.freePixelByte s.epoch a)

/-- MemRead(a, n): the n bytes at offsets a to a + n - 1, assembled little-endian
(spec/00_scope.md R9, spec/20_memory.md R65). -/
def State.memRead (s : State) (a : Nat) : Nat → Nat
  | 0 => 0
  | n + 1 => (s.byteAt a).toNat + 256 * s.memRead (a + 1) n

/-- MemWrite(a, n, v) on the state. -/
def State.memWrite (s : State) (a n v : Nat) : State := s.setPixMem (Memory.write s.pixMem a n v)

/-- Pixel(p): R, G and B of pixel p are bytes 3p, 3p + 1 and 3p + 2 (spec/20_memory.md R67).  There
is none unless the host has written all three since reset (spec/70_reset_and_hazards.md R243). -/
def State.pixel? (s : State) (p : Nat) : Option Pixel := do
  let r ← s.byte? (3 * p)
  let g ← s.byte? (3 * p + 1)
  let b ← s.byte? (3 * p + 2)
  return ⟨r, g, b⟩

/-! ## Buffers and tables by name -/

/-- A sample word: `sext_32` of an exact integer (spec/00_scope.md R8). -/
def sample (x : Int) : Word := BitVec.ofInt 32 x

/-- Entry `i` of a table, the integer it holds (spec/10_state.md R33). -/
def Table.entry (t : Table) (i : Byte) : Int := (t[i.toNat]'i.isLt).toInt

/-- The table of a name. -/
def Tables.get (ts : Tables) : TableId → Table
  | .yr => ts.yr
  | .yg => ts.yg
  | .yb => ts.yb
  | .cbR => ts.cbR
  | .cbG => ts.cbG
  | .cbB => ts.cbB
  | .crG => ts.crG
  | .crB => ts.crB

/-- The buffer of a name. -/
def Buffers.get (bs : Buffers) : BufId → Buffer
  | .yb0 => bs.yb0
  | .yb1 => bs.yb1
  | .yb2 => bs.yb2
  | .yb3 => bs.yb3
  | .cb => bs.cb
  | .cr => bs.cr

/-- YB(2h) and YB(2h + 1), the luma buffers of a half, replaced (spec/43_subsampled.md R181). -/
def Buffers.setLuma (bs : Buffers) (left right : Buffer) : Half → Buffers
  | .upper => { bs with yb0 := left, yb1 := right }
  | .lower => { bs with yb2 := left, yb3 := right }

/-- Rows 4h to 4h + 3 of a chroma buffer replaced: word n is `f n` for n in 32h to 32h + 31, and
every other word keeps its value (spec/43_subsampled.md R186, R188). -/
def Buffer.setRows (b : Buffer) (h : Half) (f : Nat → Word) : Buffer :=
  tabulateBuffer fun n =>
    if 32 * h.toNat ≤ n.val ∧ n.val < 32 * h.toNat + 32 then f n.val else b[n.val]

end Sys2Proof.Machine
end

