-- ==== Sys2Proof/Machine/Control.lean ====
section
/-!
DEFINITION. The control commands: NOP and the reserved words (spec/44_control.md).
-/

namespace Sys2Proof.Machine

/-- NOP: ERR becomes 0 and nothing else changes.  It never raises NOTBUILT (spec/44_control.md R200). -/
def execNop (s : State) : Host.Outcome State Fault Refusal := s.succeed

/-- A reserved word completes with ILLEGAL and no other effect, whichever the reason
(spec/44_control.md R201, spec/60_exceptions.md R213). -/
def completeReserved (_ : Reject) (s : State) : Host.Outcome State Fault Refusal := s.raise .illegal

end Sys2Proof.Machine
end

