-- ==== Sys2Proof/Machine/Mac.lean ====
section
/-!
DEFINITION. The Pixel Converter: the fixed-point multiply-accumulate datapath, whose "multiply" is
a table lookup (spec/41_pixel_converter.md R150).  Sums are exact integers, no constant is added at
this stage (spec/40_table_builder.md R134) and nothing is clamped (spec/41_pixel_converter.md R159).
-/

namespace Sys2Proof.Machine

/-- ScaleBits (spec/00_scope.md R7). -/
def scaleBits : Nat := 16

/-- ACC_Y = T_YR[R] + T_YG[G] + T_YB[B] (spec/41_pixel_converter.md R150). -/
def Tables.accY (t : Tables) (p : Pixel) : Int :=
  Table.entry t.yr p.r + Table.entry t.yg p.g + Table.entry t.yb p.b

/-- ACC_Cb = T_CbR[R] + T_CbG[G] + T_CbB[B] (spec/41_pixel_converter.md R150). -/
def Tables.accCb (t : Tables) (p : Pixel) : Int :=
  Table.entry t.cbR p.r + Table.entry t.cbG p.g + Table.entry t.cbB p.b

/-- ACC_Cr = T_CbB[R] + T_CrG[G] + T_CrB[B], with T_CbB indexed by R
(spec/41_pixel_converter.md R150, spec/40_table_builder.md R136). -/
def Tables.accCr (t : Tables) (p : Pixel) : Int :=
  Table.entry t.cbB p.r + Table.entry t.crG p.g + Table.entry t.crB p.b

/-- Yf = ACC_Y >>> 16, as a sample word (spec/41_pixel_converter.md R150). -/
def Tables.yOf (t : Tables) (p : Pixel) : Word := sample (t.accY p >>> scaleBits)

/-- Cbf = ACC_Cb >>> 16, as a sample word (spec/41_pixel_converter.md R150). -/
def Tables.cbOf (t : Tables) (p : Pixel) : Word := sample (t.accCb p >>> scaleBits)

/-- Crf = ACC_Cr >>> 16, as a sample word (spec/41_pixel_converter.md R150). -/
def Tables.crOf (t : Tables) (p : Pixel) : Word := sample (t.accCr p >>> scaleBits)

end Sys2Proof.Machine
end

