-- ==== Sys2Proof/Machine/Operands.lean ====
section
/-!
DEFINITION. The operands of the commands (spec/30_encoding.md R102): the pixel of PIXIN, the
geometry of a block and its pixels (spec/20_memory.md R68), the box filter of CVT420, and the
checks made before a command's operation (spec/60_exceptions.md R218).
-/

namespace Sys2Proof.Machine

/-- BASE, zero-extended (spec/30_encoding.md R102). -/
def State.base (s : State) : Nat := s.pixBase.toNat

/-- STRIDE, zero-extended (spec/30_encoding.md R102). -/
def State.stride (s : State) : Nat := s.pixStride.toNat

/-- p(r, c) = BASE + r·STRIDE + c, an unbounded integer with no wrap (spec/20_memory.md R68). -/
def State.pixelIndex (s : State) (r c : Nat) : Nat := s.base + r * s.stride + c

/-- The pixel at row r and column c of the block, if the host has written it. -/
def State.blockPixel? (s : State) (r c : Nat) : Option Pixel := s.pixel? (s.pixelIndex r c)

/-- The operand of a single-pixel command: R = PIXIN[7:0], G = PIXIN[15:8], B = PIXIN[23:16]
(spec/30_encoding.md R102). -/
def State.pixinPixel (s : State) : Pixel := s.pixin

/-- Every pixel of a block `wd` pixels wide lies in the pixel memory:
BASE + 7·STRIDE + wd - 1 < N_PIX (spec/20_memory.md R68, spec/60_exceptions.md R215). -/
def State.inBounds (s : State) (wd : Nat) : Bool :=
  decide (s.base + 7 * s.stride + wd - 1 < s.nPix)

/-- floor((a + b + c + d) / 4): a 2×2 sum of one channel, at most 1020, divided by 4 with no rounding
bias (spec/43_subsampled.md R183, R184). -/
def average4 (a b c d : Byte) : Byte :=
  BitVec.ofNat 8 ((a.toNat + b.toNat + c.toNat + d.toNat) / 4)

/-- The averaged triple of four pixels, channel by channel (spec/43_subsampled.md R184). -/
def averagePixel (a b c d : Pixel) : Pixel :=
  ⟨average4 a.r b.r c.r d.r, average4 a.g b.g c.g d.g, average4 a.b b.b c.b d.b⟩

/-- The averaged triple of row pair j (rows 2j and 2j + 1) and chroma column q (columns 2q and
2q + 1), if the host has written all four pixels (spec/43_subsampled.md R183, R184). -/
def State.boxPixel? (s : State) (j q : Nat) : Option Pixel := do
  let a ← s.blockPixel? (2 * j) (2 * q)
  let b ← s.blockPixel? (2 * j) (2 * q + 1)
  let c ← s.blockPixel? (2 * j + 1) (2 * q)
  let d ← s.blockPixel? (2 * j + 1) (2 * q + 1)
  return averagePixel a b c d

/-- The sample that a block command writes to word `n` of buffer number `k` (spec/20_memory.md R69):
the conversion `f` of its pixel, or, where the host has not written every byte that the sample
depends on, an unspecified value in [0,255] (spec/70_reset_and_hazards.md R243,
spec/93_implementation_defined.md U9). -/
def State.sampleFor (s : State) (k n : Nat) (f : Pixel → Word) : Option Pixel → Word
  | some p => f p
  | none => (Config.freeSample s.epoch s.draws k n).setWidth 32

/-- A conversion of one pixel: NOTBUILT if TV = 0, and else the effect `t` (spec/60_exceptions.md
R214, R218). -/
def State.convertPixel (s t : State) : Host.Outcome State Fault Refusal :=
  if s.tv then t.succeed else s.raise .notBuilt

/-- A conversion of a block `wd` pixels wide: NOTBUILT if TV = 0, then BOUNDS if a pixel lies at or
beyond N_PIX, and else the effect `t` (spec/60_exceptions.md R214, R215, R218). -/
def State.convertBlock (wd : Nat) (s t : State) : Host.Outcome State Fault Refusal :=
  if s.tv then
    if s.inBounds wd then t.succeed else s.raise .bounds
  else s.raise .notBuilt

end Sys2Proof.Machine
end

