-- ==== Sys2Proof/Machine/FullResolution.lean ====
section
/-!
DEFINITION. The Full-Resolution Block Converter, CVT444 (spec/42_full_resolution.md).
-/

namespace Sys2Proof.Machine

/-- Buffer number `k` as CVT444 writes it: word n = 8r + c is the sample of the pixel p(r, c) of the
block (spec/42_full_resolution.md R171). -/
def State.convertGrid (s : State) (k : Nat) (f : Pixel → Word) : Buffer :=
  tabulateBuffer fun n => s.sampleFor k n f (s.blockPixel? (n.val / 8) (n.val % 8))

/-- The buffers that CVT444 leaves: YB0, CB and CR take the 64 conversions, and YB1 to YB3 keep
their values (spec/42_full_resolution.md R170). -/
def State.fullBuffers (s : State) : Buffers :=
  { s.bufs with
    yb0 := s.convertGrid 0 s.tables.yOf
    cb  := s.convertGrid 4 s.tables.cbOf
    cr  := s.convertGrid 5 s.tables.crOf }

/-- CVT444 (spec/42_full_resolution.md R170). -/
def execCvt444 (s : State) : Host.Outcome State Fault Refusal :=
  s.convertBlock 8 (s.setBufs s.fullBuffers)

end Sys2Proof.Machine
end

