-- ==== Sys2Proof/Machine/PixelConverter.lean ====
section
/-!
DEFINITION. The single-pixel commands PXY, PXC and PXYCC (spec/41_pixel_converter.md).
-/

namespace Sys2Proof.Machine

/-- PXY: RES_Y takes the luma of PIXIN, and RES_CB and RES_CR keep their values
(spec/41_pixel_converter.md R155). -/
def execPxy (s : State) : Host.Outcome State Fault Refusal :=
  s.convertPixel (s.setResY (s.tables.yOf s.pixinPixel))

/-- PXC: RES_CB and RES_CR take the chroma of PIXIN, and RES_Y keeps its value
(spec/41_pixel_converter.md R156). -/
def execPxc (s : State) : Host.Outcome State Fault Refusal :=
  s.convertPixel (s.setResC (s.tables.cbOf s.pixinPixel) (s.tables.crOf s.pixinPixel))

/-- PXYCC: all three result registers take their values (spec/41_pixel_converter.md R157). -/
def execPxycc (s : State) : Host.Outcome State Fault Refusal :=
  s.convertPixel ((s.setResY (s.tables.yOf s.pixinPixel)).setResC
    (s.tables.cbOf s.pixinPixel) (s.tables.crOf s.pixinPixel))

end Sys2Proof.Machine
end

