-- ==== Sys2Proof/Machine/Subsampled.lean ====
section
/-!
DEFINITION. The Subsampled Block Converter, CVT420 (spec/43_subsampled.md).
-/

namespace Sys2Proof.Machine

/-- Luma buffer number `k` as CVT420 writes it: word 8r + c is the luma of p(r, c + col), with col = 0
for the left half and 8 for the right half.  Luma is never averaged (spec/43_subsampled.md R182). -/
def State.lumaBlock (s : State) (k col : Nat) : Buffer :=
  tabulateBuffer fun n =>
    s.sampleFor k n s.tables.yOf (s.blockPixel? (n.val / 8) (n.val % 8 + col))

/-- Chroma buffer number `k`, of contents `b`, with its rows 4h to 4h + 3 converted: word
8·(4h + j) + q is the conversion of the averaged triple of row pair j and chroma column q
(spec/43_subsampled.md R185, R186, R187). -/
def State.chromaRows (s : State) (h : Half) (k : Nat) (f : Pixel → Word) (b : Buffer) : Buffer :=
  Buffer.setRows b h fun n => s.sampleFor k n f (s.boxPixel? (n / 8 - 4 * h.toNat) (n % 8))

/-- The buffers that CVT420 h leaves (spec/43_subsampled.md R181, R188). -/
def State.subsampledBuffers (s : State) (h : Half) : Buffers :=
  { s.bufs.setLuma (s.lumaBlock (2 * h.toNat) 0) (s.lumaBlock (2 * h.toNat + 1) 8) h with
    cb := s.chromaRows h 4 s.tables.cbOf s.bufs.cb
    cr := s.chromaRows h 5 s.tables.crOf s.bufs.cr }

/-- CVT420 h (spec/43_subsampled.md R181). -/
def execCvt420 (h : Half) (s : State) : Host.Outcome State Fault Refusal :=
  s.convertBlock 16 (s.setBufs (s.subsampledBuffers h))

end Sys2Proof.Machine
end

