-- ==== Sys2Proof/Machine/TableBuilder.lean ====
section
/-!
DEFINITION. The Table Builder and BUILD (spec/40_table_builder.md).
-/

namespace Sys2Proof.Machine

/-- Half = 2^15 (spec/00_scope.md R7). -/
def half : Int := 32768

/-- CbCrOffset = 128 × 2^16 (spec/00_scope.md R7). -/
def cbCrOffset : Int := 8388608

/-! The eight coefficient constants (spec/40_table_builder.md R131). -/

/-- fix(0.299). -/
def kYR : Int := 19595
/-- fix(0.587). -/
def kYG : Int := 38470
/-- fix(0.114). -/
def kYB : Int := 7471
/-- fix(0.168735892). -/
def kCbR : Int := 11058
/-- fix(0.331264108). -/
def kCbG : Int := 21710
/-- fix(0.5), which serves Cb's B term and Cr's R term (spec/40_table_builder.md R136). -/
def kCbB : Int := 32768
/-- fix(0.418687589). -/
def kCrG : Int := 27439
/-- fix(0.081312411). -/
def kCrB : Int := 5329

/-- fix(x) for the coefficient x = c / 10^d: floor(x × 65536 + 1/2)
(spec/40_table_builder.md R132), in exact integers. -/
def fix (c d : Nat) : Int := ((2 * 65536 * c + 10 ^ d) / (2 * 10 ^ d) : Nat)

/-- The table whose entry i is slope × i + bias, exact, stored as 32-bit two's complement
(spec/40_table_builder.md R130, R137). -/
def linearTable (slope bias : Int) : Table :=
  tabulateTable fun i => BitVec.ofInt 32 (slope * (i.val : Int) + bias)

/-- The table set that BUILD computes (spec/40_table_builder.md R130, R133).  The biases are in T_YB
and T_CbB only (R134), and the "- 1" of T_CbB is part of its value (R135). -/
def builtTables : Tables where
  yr  := linearTable kYR 0
  yg  := linearTable kYG 0
  yb  := linearTable kYB half
  cbR := linearTable (-kCbR) 0
  cbG := linearTable (-kCbG) 0
  cbB := linearTable kCbB (cbCrOffset + half - 1)
  crG := linearTable (-kCrG) 0
  crB := linearTable (-kCrB) 0

/-- BUILD: the tables take their values, TV becomes 1 and ERR becomes 0
(spec/40_table_builder.md R130). -/
def execBuild (s : State) : Host.Outcome State Fault Refusal := (s.setTables builtTables).succeed

end Sys2Proof.Machine
end

