-- ==== Sys2Proof/Machine/Dispatch.lean ====
section
/-!
DEFINITION. The meaning of each command: one arm per constructor of Instr.
-/

namespace Sys2Proof.Machine

def exec (i : Instr) (s : State) : Host.Outcome State Fault Refusal :=
  match i with
  | .nop => Sys2Proof.Machine.execNop s
  | .build => Sys2Proof.Machine.execBuild s
  | .pxy => Sys2Proof.Machine.execPxy s
  | .pxc => Sys2Proof.Machine.execPxc s
  | .pxycc => Sys2Proof.Machine.execPxycc s
  | .cvt444 => Sys2Proof.Machine.execCvt444 s
  | .cvt420 h => Sys2Proof.Machine.execCvt420 h s

end Sys2Proof.Machine
end

