-- ==== Sys2Proof/Machine/Engine.lean ====
section
/-!
DEFINITION. The command engine's step (spec/70_reset_and_hazards.md R246).
-/

namespace Sys2Proof.Machine

/-- The engine's turn.  It is enabled when BUSY = 1: it decodes CUR and completes the command as one
atomic step.  When BUSY = 0 nothing happens (spec/70_reset_and_hazards.md R246). -/
def engineTurn (s : State) : Host.Outcome State Fault Refusal :=
  if s.busy then
    match decode s.fetchWord with
    | .ok i => exec i s
    | .error e => completeReserved e s
  else .next s

end Sys2Proof.Machine
end

