-- ==== Sys2Proof/Machine/Flags.lean ====
section
/-!
DEFINITION. The status bits.  The core has no condition codes and no arithmetic flags
(spec/10_state.md R39): the only status bits are those of STATUS (R25).
-/

namespace Sys2Proof.Machine

/-- The four bits of an outcome code (spec/10_state.md R26). -/
def ErrCode.bits : ErrCode → BitVec 4
  | .ok => 0#4
  | .illegal => 1#4
  | .notBuilt => 2#4
  | .bounds => 3#4

/-- A one-bit field. -/
def flagBit (b : Bool) : BitVec 1 := if b then 1#1 else 0#1

/-- STATUS as a read returns it: BUSY is bit 0, TV bit 1, OVR bit 2, ERR bits [7:4], and every other
bit reads 0 (spec/10_state.md R25). -/
def State.statusWord (s : State) : Word :=
  0#24 ++ s.err.bits ++ 0#1 ++ flagBit s.ovr ++ flagBit s.tv ++ flagBit s.busy

end Sys2Proof.Machine
end

