-- ==== Sys2Proof/Machine/HostBus.lean ====
section
/-!
DEFINITION. The bus slave port: the window's address map, the causes of a BUSERR, and what an
accepted access returns and changes (spec/20_memory.md, spec/60_exceptions.md R216).
-/

namespace Sys2Proof.Machine

/-- The control register of word number `k` of the window (spec/10_state.md R23). -/
def regOfWord : Nat → Reg
  | 0 => .cmd
  | 1 => .status
  | 2 => .pixBase
  | 3 => .pixStride
  | 4 => .pixin
  | 5 => .resY
  | 6 => .resCb
  | 7 => .resCr
  | _ => .cfg

/-- Output buffer number `k` (spec/20_memory.md R69). -/
def bufOfNumber : Nat → BufId
  | 0 => .yb0
  | 1 => .yb1
  | 2 => .yb2
  | 3 => .yb3
  | 4 => .cb
  | _ => .cr

/-- Lookup table number `t` (spec/20_memory.md R70). -/
def tableOfNumber : Nat → TableId
  | 0 => .yr
  | 1 => .yg
  | 2 => .yb
  | 3 => .cbR
  | 4 => .cbG
  | 5 => .cbB
  | 6 => .crG
  | _ => .crB

/-- The window's address map, for a pixel memory of 3·`n` bytes (spec/20_memory.md R61, R66, R69,
R70). -/
def placeOf (n a : Nat) : Place :=
  if a < 0x0024 then .reg (regOfWord (a / 4))
  else if a < 0x0400 then .reserved
  else if a < 0x0A00 then
    .buffer (bufOfNumber ((a - 0x0400) / 0x100))
      ⟨a % 0x100 / 4, Nat.div_lt_of_lt_mul (Nat.mod_lt a (by decide))⟩
  else if a < 0x2000 then .reserved
  else if a < 0x4000 then
    .table (tableOfNumber ((a - 0x2000) / 0x400))
      ⟨a % 0x400 / 4, Nat.div_lt_of_lt_mul (Nat.mod_lt a (by decide))⟩
  else if a < 0x4000 + 3 * n then .pixels (a - 0x4000)
  else .reserved

/-- What an access names. -/
def State.placeAt (s : State) (x : Access) : Place := placeOf s.nPix x.offset.toNat

/-- The width is 1, 2 or 4, and the offset is a multiple of it (spec/20_memory.md R63, R64). -/
def Access.aligned (x : Access) : Bool :=
  (x.width == 1 || x.width == 2 || x.width == 4) && x.offset.toNat % x.width == 0

/-- The access lies in a mapped region.  An access of the pixel memory lies wholly inside it
(spec/20_memory.md R61, R64); with a legal N_PIX an aligned one that starts inside also ends
inside. -/
def State.mapped (s : State) (x : Access) : Bool :=
  match s.placeAt x with
  | .reg _ => true
  | .buffer _ _ => true
  | .table _ _ => true
  | .pixels a => decide (a + x.width ≤ 3 * s.nPix)
  | .reserved => false

/-- The region accepts width 4 only (spec/20_memory.md R63). -/
def Place.wordOnly : Place → Bool
  | .reg _ => true
  | .buffer _ _ => true
  | .table _ _ => true
  | .pixels _ => false
  | .reserved => true

/-- A write is never accepted here (spec/60_exceptions.md R216 cause 4). -/
def Place.readOnly : Place → Bool
  | .reg .cmd => false
  | .reg .status => true
  | .reg .pixBase => false
  | .reg .pixStride => false
  | .reg .pixin => false
  | .reg .resY => true
  | .reg .resCb => true
  | .reg .resCr => true
  | .reg .cfg => true
  | .buffer _ _ => true
  | .table _ _ => true
  | .pixels _ => false
  | .reserved => true

/-- The place is an entry of a lookup table. -/
def Place.isTable : Place → Bool
  | .table _ _ => true
  | .reg _ => false
  | .buffer _ _ => false
  | .pixels _ => false
  | .reserved => false

/-- The two accesses that the core accepts while BUSY = 1: a read of STATUS and a write of CMD
(spec/20_memory.md R80). -/
def Place.acceptedWhileBusy (p : Place) (write : Bool) : Bool :=
  match p with
  | .reg .status => !write
  | .reg .cmd => write
  | .reg .pixBase => false
  | .reg .pixStride => false
  | .reg .pixin => false
  | .reg .resY => false
  | .reg .resCb => false
  | .reg .resCr => false
  | .reg .cfg => false
  | .buffer _ _ => false
  | .table _ _ => false
  | .pixels _ => false
  | .reserved => false

/-- The first cause of a BUSERR that holds, in the order of spec/60_exceptions.md R216. -/
def State.busCause (s : State) (x : Access) : Option BusCause :=
  if !x.aligned then some .widthOrAlignment
  else if !s.mapped x then some .reservedOffset
  else if (s.placeAt x).wordOnly && x.width != 4 then some .notWordAccess
  else if x.isWrite && (s.placeAt x).readOnly then some .readOnly
  else if !x.isWrite && (s.placeAt x).isTable && !s.tv then some .tableNotBuilt
  else if s.busy && !(s.placeAt x).acceptedWhileBusy x.isWrite then some .busy
  else none

/-- PIXIN as a read returns it (spec/10_state.md R29, R32). -/
def State.pixinWord (s : State) : Word := (s.pixin.b ++ s.pixin.g ++ s.pixin.r).setWidth 32

/-- The value a read of a control register returns (spec/10_state.md R23 to R32).  CMD reads 0. -/
def State.readReg (s : State) : Reg → Word
  | .cmd => 0
  | .status => s.statusWord
  | .pixBase => s.pixBase.setWidth 32
  | .pixStride => s.pixStride.setWidth 32
  | .pixin => s.pixinWord
  | .resY => s.resY
  | .resCb => s.resCb
  | .resCr => s.resCr
  | .cfg => (BitVec.ofNat 16 s.nPix).setWidth 32

/-- The value an accepted read of width `w` returns.  A read has no side effect
(spec/20_memory.md R71). -/
def State.readPlace (s : State) (w : Nat) : Place → Word
  | .reg r => s.readReg r
  | .buffer k n => (s.bufs.get k)[n.val]
  | .table t i => (s.tables.get t)[i.val]
  | .pixels a => BitVec.ofNat 32 (s.memRead a w)
  | .reserved => 0

/-- A write of CMD: accepted while BUSY = 0, discarded while BUSY = 1 (spec/10_state.md R24). -/
def State.writeCmd (s : State) (v : Word) : State := if s.busy then s.overrun else s.accept v

/-- The effect of an accepted write of width `w`.  The read-only places are refused before. -/
def State.writePlace (s : State) (w : Nat) (v : Word) : Place → State
  | .reg .cmd => s.writeCmd v
  | .reg .status => s
  | .reg .pixBase => s.setPixBase v
  | .reg .pixStride => s.setPixStride v
  | .reg .pixin => s.setPixin v
  | .reg .resY => s
  | .reg .resCb => s
  | .reg .resCr => s
  | .reg .cfg => s
  | .buffer _ _ => s
  | .table _ _ => s
  | .pixels a => s.memWrite a w v.toNat
  | .reserved => s

/-- The response to an access (spec/20_memory.md R60, R62). -/
def State.respond (s : State) (x : Access) : Response :=
  match s.busCause x with
  | some _ => .buserr
  | none =>
    match x with
    | .read _ w => .data (s.readPlace w (s.placeAt x))
    | .write _ _ _ => .ok

/-- The state after an access: a BUSERR and a read change nothing (spec/20_memory.md R62, R71). -/
def State.afterAccess (s : State) (x : Access) : State :=
  match s.busCause x with
  | some _ => s
  | none =>
    match x with
    | .read _ _ => s
    | .write _ w v => s.writePlace w v (s.placeAt x)

end Sys2Proof.Machine
end

