-- ==== Sys2Proof/Machine/Events.lean ====
section
/-!
DEFINITION. The events of the machine other than a command's completion: a line of the host's
program and the reset input, and the order of the turns (spec/20_memory.md R73,
spec/60_exceptions.md R219).
-/

namespace Sys2Proof.Machine

/-- The host after a response: one line further, with `v` the value read, if one was
(spec/20_memory.md R60, spec/30_encoding.md R107). -/
def HostAgent.answered (h : HostAgent) (r : Response) : HostAgent :=
  { h with
    pos := h.pos + 1
    v := match r with
      | .data v => v
      | .ok => h.v
      | .buserr => h.v
    responses := r :: h.responses }

/-- The host after `BNZ v, mask, label`: at the label if (v AND mask) != 0, and else one line further
(spec/30_encoding.md R107). -/
def HostAgent.branch (h : HostAgent) (mask : Word) (target : Nat) : HostAgent :=
  { h with pos := if h.v &&& mask ≠ 0 then target else h.pos + 1 }

/-- The line the host executes next, if its program has one. -/
def HostAgent.line? (h : HostAgent) : Option Line := h.script[h.pos]?

/-- The host's turn: one line of its program.  A bus access is one atomic event
(spec/20_memory.md R72).  A host at the end of its program does nothing. -/
def State.hostTurn (s : State) : State :=
  match s.host.line? with
  | none => s
  | some (.access x) => (s.afterAccess x).setHost (s.host.answered (s.respond x))
  | some (.bnz mask target) => s.setHost (s.host.branch mask target)

/-- The reset input: one atomic event that puts every piece of the core's state to its reset value
and abandons a command in progress.  The host and the turns to come are not the core's, and N_PIX
is a constant (spec/70_reset_and_hazards.md R240, R241). -/
def State.resetEvent (s : State) : State := State.resetWith s.nPix (s.epoch + 1) s.host s.turns

/-- Whose turn it is, and the state with that turn taken off.  With no turn listed the engine moves
while BUSY = 1, and else the host (spec/70_reset_and_hazards.md R246, notes/assumptions/4.md). -/
def State.nextTurn (s : State) : Turn × State :=
  match s.turns with
  | [] => (if s.busy then .engine else .host, s)
  | t :: ts => (t, s.setTurns ts)

end Sys2Proof.Machine
end

