-- ==== Sys2Proof/Machine/Step.lean ====
section
/-!
DEFINITION. One step of the machine: the next event of the one total order of host accesses,
completions and resets (spec/20_memory.md R73, spec/60_exceptions.md R219).
-/

namespace Sys2Proof.Machine

/-- What the agent whose turn it is does. -/
def turnStep : Turn → State → Host.Outcome State Fault Refusal
  | .host, s => .next s.hostTurn
  | .engine, s => engineTurn s
  | .reset, s => .next s.resetEvent

/-- One step of the machine. -/
def step (s : State) : Host.Outcome State Fault Refusal :=
  turnStep s.nextTurn.1 s.nextTurn.2

/-- `s` with the command word of an opcode-table row accepted and the engine's completion next.  The
core fetches no instructions: the word it completes is CUR, which a CMD write latches
(spec/20_memory.md R77).  So CUR takes the word and BUSY becomes 1, and no turn comes before the
engine's.  It stands for the host's write of CMD (notes/assumptions/5.md). -/
def State.withFetchWord (s : State) (nbits w : Nat) : State :=
  { s with cur := BitVec.ofNat 32 (w % 2 ^ nbits), busy := true, turns := [] }

end Sys2Proof.Machine
end

