-- ==== Sys2Proof/WellFormed.lean ====
section
/-!
DEFINITION. When a term that a person may write is well formed: a configuration and a host script.
A command needs no check of its own: its one operand is typed to the two values that the encoding
admits (`Half`, spec/30_encoding.md R102), so every value of `Instr` is a command of the core.
-/

namespace Sys2Proof

open Sys2Proof.Machine

/-- N_PIX is a legal value (spec/00_scope.md R6). -/
def WellFormed.nPix (n : Nat) : Bool := decide (Config.LegalNPix n)

/-- The width of a host-script access is 4, 2 or 1 (spec/30_encoding.md R107). -/
def WellFormed.width (w : Nat) : Bool := w == 1 || w == 2 || w == 4

/-- The labels a script declares, in order. -/
def WellFormed.labels : List Src → List Nat
  | [] => []
  | .label l :: rest => l :: WellFormed.labels rest
  | _ :: rest => WellFormed.labels rest

/-- One line of a script whose declared labels are `ls`: the width of a plain access is one the
notation has, a value written with an access fits its width, a branch names a declared label, the
intensities of SETPIX are in 0 to 255 and the operands of SETGEOM fit a register
(spec/30_encoding.md R107, R108). -/
def WellFormed.line (ls : List Nat) : Src → Bool
  | .write w _ val => WellFormed.width w && decide (val.toNat < 256 ^ w)
  | .read w _ => WellFormed.width w
  | .label _ => true
  | .bnz _ l => ls.contains l
  | .cmd _ => true
  | .setpix r g b => decide (r < 256) && decide (g < 256) && decide (b < 256)
  | .setgeom base stride => decide (base < 2 ^ 32) && decide (stride < 2 ^ 32)
  | .wait => true

/-- A host script: every line is well formed and no label is declared twice. -/
def WellFormed.script (prog : List Src) : Bool :=
  prog.all (WellFormed.line (WellFormed.labels prog)) && decide (WellFormed.labels prog).Nodup

end Sys2Proof
end

