-- ==== Sys2Proof/Machine/Script.lean ====
section
/-!
DEFINITION. The host-script notation of spec/30_encoding.md R107 and R108: the expansion of its
pseudo-instructions, the resolution of its labels, and loading a host program.
-/

namespace Sys2Proof.Machine

/-! The window offsets that the notation names (spec/30_encoding.md R107). -/

/-- CMD. -/
def offCmd : Offset := 0x0000
/-- STATUS. -/
def offStatus : Offset := 0x0004
/-- PIX_BASE. -/
def offPixBase : Offset := 0x0008
/-- PIX_STRIDE. -/
def offPixStride : Offset := 0x000C
/-- PIXIN. -/
def offPixin : Offset := 0x0010
/-- RES_Y. -/
def offResY : Offset := 0x0014
/-- RES_CB. -/
def offResCb : Offset := 0x0018
/-- RES_CR. -/
def offResCr : Offset := 0x001C
/-- CFG. -/
def offCfg : Offset := 0x0020

/-- `W32 off, val`. -/
def w32 (off : Offset) (v : Word) : Line := .access (.write off 4 v)

/-- `RD32 off`. -/
def rd32 (off : Offset) : Line := .access (.read off 4)

/-- The word that SETPIX writes: (b << 16) OR (g << 8) OR r (spec/30_encoding.md R108). -/
def setpixWord (r g b : Nat) : Word := BitVec.ofNat 32 (b <<< 16 ||| g <<< 8 ||| r)

/-- How many lines a source line expands to (spec/30_encoding.md R108). -/
def Src.size : Src → Nat
  | .write _ _ _ => 1
  | .read _ _ => 1
  | .label _ => 0
  | .bnz _ _ => 1
  | .cmd _ => 1
  | .setpix _ _ _ => 1
  | .setgeom _ _ => 2
  | .wait => 2

/-- How many lines a script expands to. -/
def scriptSize : List Src → Nat
  | [] => 0
  | x :: rest => x.size + scriptSize rest

/-- The line number of label `l`, in a script whose first line has number `at_`. -/
def labelLine (l : Nat) : List Src → Nat → Option Nat
  | [], _ => none
  | .label k :: rest, at_ => if k = l then some at_ else labelLine l rest at_
  | x :: rest, at_ => labelLine l rest (at_ + x.size)

/-- The lines of one source line that stands at line number `at_`, with the labels of `prog`
(spec/30_encoding.md R107, R108).  WAIT branches to its own read.  A branch to an undeclared label,
which a well-formed script does not have, goes to the end of the script. -/
def Src.expand (prog : List Src) (at_ : Nat) : Src → List Line
  | .write w off v => [.access (.write off w v)]
  | .read w off => [.access (.read off w)]
  | .label _ => []
  | .bnz mask l => [.bnz mask ((labelLine l prog 0).getD (scriptSize prog))]
  | .cmd i => [w32 offCmd (encode i)]
  | .setpix r g b => [w32 offPixin (setpixWord r g b)]
  | .setgeom base stride =>
    [w32 offPixBase (BitVec.ofNat 32 base), w32 offPixStride (BitVec.ofNat 32 stride)]
  | .wait => [rd32 offStatus, .bnz 1 at_]

/-- The lines of the rest of a script, from line number `at_` on. -/
def assembleFrom (prog : List Src) : List Src → Nat → List Line
  | [], _ => []
  | x :: rest, at_ => x.expand prog at_ ++ assembleFrom prog rest (at_ + x.size)

/-- The lines of a script, or nothing if the script is not well formed. -/
def assemble (prog : List Src) : Option (List Line) :=
  if WellFormed.script prog then some (assembleFrom prog prog 0) else none

/-- A host about to run a program: the program is loaded from outside the core, and nothing of the
core changes (notes/assumptions/5.md). -/
def State.loadScript (lines : List Line) (s : State) : State :=
  s.setHost { script := lines, pos := 0, v := 0, responses := [] }

end Sys2Proof.Machine
end

