-- ==== Sys2Proof/Safety.lean ====
section
/-!
DEFINITION. What counts as a safe state and a finished run, in the terms that claims use.
-/

namespace Sys2Proof.Machine

/-- A sample word holds a value in [0,255] (spec/41_pixel_converter.md R151). -/
def InRange (w : Word) : Prop := w.toNat ≤ 255

/-- Every listed byte lies inside a pixel memory of 3·`n` bytes (spec/10_state.md R36). -/
def Memory.Inside (m : Memory) (n : Nat) : Prop := ∀ c ∈ m, c.1 < 3 * n

/-- What every run keeps: N_PIX is legal (spec/00_scope.md R6); the pixel memory has its canonical
form and lists only bytes that exist (spec/10_state.md R36); while TV = 1 the tables hold the values
of BUILD (spec/10_state.md R34); and each result register holds a value in [0,255]
(spec/10_state.md R31). -/
structure State.Inv (s : State) : Prop where
  nPix   : Config.LegalNPix s.nPix
  memory : Memory.wf s.pixMem = true
  inside : Memory.Inside s.pixMem s.nPix
  tables : s.tv = true → s.tables = builtTables
  resY   : InRange s.resY
  resCb  : InRange s.resCb
  resCr  : InRange s.resCr

/-! The reference formulas that the accuracy property compares with, rounded half up
(spec/41_pixel_converter.md R158).  Rounding half up of n / d is floor((2n + d) / 2d).  The core
never computes them. -/

/-- round(Y*), with Y* = 0.299R + 0.587G + 0.114B. -/
def refY (p : Pixel) : Int :=
  (2 * (299 * (p.r.toNat : Int) + 587 * p.g.toNat + 114 * p.b.toNat) + 1000) / 2000

/-- round(Cb*), with Cb* = 128 - 0.168735892R - 0.331264108G + 0.5B. -/
def refCb (p : Pixel) : Int :=
  (2 * (128000000000 - 168735892 * (p.r.toNat : Int) - 331264108 * p.g.toNat
    + 500000000 * p.b.toNat) + 1000000000) / 2000000000

/-- round(Cr*), with Cr* = 128 + 0.5R - 0.418687589G - 0.081312411B. -/
def refCr (p : Pixel) : Int :=
  (2 * (128000000000 + 500000000 * (p.r.toNat : Int) - 418687589 * p.g.toNat
    - 81312411 * p.b.toNat) + 1000000000) / 2000000000

/-- The geometry of a block set to BASE = b and STRIDE = S, as `SETGEOM b, S` sets it
(spec/30_encoding.md R108). -/
def State.withGeometry (s : State) (b S : Nat) : State :=
  { s with pixBase := BitVec.ofNat 16 b, pixStride := BitVec.ofNat 16 S }

/-- A host program's run has ended: the host has made its last access and BUSY = 0
(spec/70_reset_and_hazards.md R249).  DESIGN CHOICE (notes/assumptions/2.md), since R249 does not say
when the last access has been made: the host has, once it stands past the last line of its script.
So a line still to come, a branch BNZ included, keeps the run unfinished though no access is left.
-/
def State.finished (s : State) : Bool := s.host.line?.isNone && !s.busy

end Sys2Proof.Machine
end

