-- ==== Sys2Proof/Certificates/Slice0/Obligations.lean ====
section
/-!
DEFINITION. The statements for the provers.  `exec i s` is what the command `i` does at its
completion in the state `s`; `step` is one event of the machine.  A statement that quantifies over
`s` holds for every N_PIX the state carries, every content of the buffers, tables and pixel memory,
and every order of the turns.
-/

open Sys2Proof Sys2Proof.Machine

/-! ## Encoding -/

/-- spec/30_encoding.md R101: the eight words, and one word for each reason of rejection. -/
def Obligations.CommandWordsDecode : Prop :=
  decode 0x00000000#32 = .ok .nop ∧ decode 0x00000001#32 = .ok .build ∧
  decode 0x00000002#32 = .ok .pxy ∧ decode 0x00000003#32 = .ok .pxc ∧
  decode 0x00000004#32 = .ok .pxycc ∧ decode 0x00000005#32 = .ok .cvt444 ∧
  decode 0x00000006#32 = .ok (.cvt420 .upper) ∧ decode 0x00000016#32 = .ok (.cvt420 .lower) ∧
  decode 0x00000007#32 = .error .reservedOp ∧ decode 0x00000011#32 = .error .halfSet ∧
  decode 0x80000006#32 = .error .nonzeroRsv

/-- spec/30_encoding.md R100, R101, R103: a word decodes to a command exactly when it is the word
that the command encodes to. -/
def Obligations.DecodeInvertsEncode : Prop :=
  ∀ (w : Word) (i : Instr), decode w = .ok i ↔ w = encode i

/-- spec/30_encoding.md R104. -/
def Obligations.LegalWordsAreExactlyEight : Prop :=
  ∀ w : Word,
    ((∃ i, decode w = .ok i) ↔
      w ∈ [0x00000000#32, 0x00000001#32, 0x00000002#32, 0x00000003#32, 0x00000004#32,
        0x00000005#32, 0x00000006#32, 0x00000016#32]) ∧
    ((∃ e, decode w = .error e) ↔
      (7 ≤ w.toNat % 16 ∨ w.toNat / 32 ≠ 0 ∨ (w.toNat / 16 % 2 = 1 ∧ w.toNat % 16 ≠ 6)))

/-! ## The step -/

/-- spec/70_reset_and_hazards.md R246: the engine's step, enabled whenever BUSY = 1, performs the
command that CUR decodes to.  That the engine moves while BUSY = 1 when no turn is listed is the
model's choice (notes/assumptions/4.md).  The last clause, about the operation withFetchWord that
stands for the host's write of CMD, is the model's choice too (notes/assumptions/5.md). -/
def Obligations.EngineTurnRunsDecodedCommand : Prop :=
  (∀ (s : State) (i : Instr), s.busy = true → decode s.cur = .ok i →
    (s.turns = [] → step s = exec i s) ∧
    (∀ ts, s.turns = .engine :: ts → step s = exec i { s with turns := ts })) ∧
  (∀ (s : State) (i : Instr),
    step (s.withFetchWord 32 (encode i).toNat) =
      exec i { s with cur := encode i, busy := true, turns := [] })

/-- spec/60_exceptions.md R213, spec/44_control.md R201: a reserved word completes with ILLEGAL, before any
check of the tables or of the geometry, and nothing else changes. -/
def Obligations.ReservedWordCompletesWithIllegal : Prop :=
  ∀ (s : State) (e : Reject) (ts : List Turn), s.busy = true → decode s.cur = .error e →
    s.turns = .engine :: ts →
    step s = .next { s with turns := ts, busy := false, err := .illegal }

/-- spec/93_implementation_defined.md "No behaviour of this core is stuck", spec/60_exceptions.md R210: every
event of every state has a next state. -/
def Obligations.EveryStepAnswersNext : Prop :=
  ∀ s : State, ∃ t, step s = .next t

/-! ## NOP and BUILD -/

/-- spec/44_control.md R200: NOP completes in every state, whatever TV is. -/
def Obligations.NopCompletesWithNoEffect : Prop :=
  decode 0x00000000#32 = .ok .nop ∧
  ∀ s : State, exec .nop s = .next { s with busy := false, err := .ok }

/-- spec/40_table_builder.md R130, R133: BUILD completes in every state; it writes the 2048 entries, TV and
ERR, and nothing else but BUSY. -/
def Obligations.BuildFillsTheTables : Prop :=
  decode 0x00000001#32 = .ok .build ∧
  ∀ s : State, ∃ t, exec .build s = .next t ∧
    t = { s with tables := t.tables, tv := true, busy := false, err := .ok } ∧
    ∀ i : Byte,
      Table.entry t.tables.yr i = 19595 * i.toNat ∧
      Table.entry t.tables.yg i = 38470 * i.toNat ∧
      Table.entry t.tables.yb i = 7471 * i.toNat + 32768 ∧
      Table.entry t.tables.cbR i = -(11058 * i.toNat) ∧
      Table.entry t.tables.cbG i = -(21710 * i.toNat) ∧
      Table.entry t.tables.cbB i = 32768 * i.toNat + 8388608 + 32768 - 1 ∧
      Table.entry t.tables.crG i = -(27439 * i.toNat) ∧
      Table.entry t.tables.crB i = -(5329 * i.toNat)

/-- spec/40_table_builder.md R138: two completions of BUILD, in whatever two states they come, leave the
same tables, those of `BuildFillsTheTables`; and a BUILD where the tables and TV are those that an
earlier BUILD left changes neither. -/
def Obligations.RepeatedBuildKeepsTables : Prop :=
  ∀ s s' t u : State, exec .build s = .next t → exec .build s' = .next u →
    u.tables = t.tables ∧
    (s'.tables = t.tables → s'.tv = t.tv → u = { s' with busy := false, err := .ok })

/-- spec/40_table_builder.md R131: each constant is fix(c) of its coefficient, and is the integer the table
gives. -/
def Obligations.CoefficientsAreRoundedProducts : Prop :=
  kYR = fix 299 3 ∧ kYR = 0x4C8B ∧ kYG = fix 587 3 ∧ kYG = 0x9646 ∧
  kYB = fix 114 3 ∧ kYB = 0x1D2F ∧ kCbR = fix 168735892 9 ∧ kCbR = 0x2B32 ∧
  kCbG = fix 331264108 9 ∧ kCbG = 0x54CE ∧ kCbB = fix 5 1 ∧ kCbB = 0x8000 ∧
  kCrG = fix 418687589 9 ∧ kCrG = 0x6B2F ∧ kCrB = fix 81312411 9 ∧ kCrB = 0x14D1

/-- spec/40_table_builder.md R137: the range of each table's entries, its ends reached at 0 and 255, and every
entry in [-2^23, 2^24). -/
def Obligations.TableEntryRanges : Prop :=
  ∀ s t : State, exec .build s = .next t →
    (∀ i : Byte,
      (0 ≤ Table.entry t.tables.yr i ∧ Table.entry t.tables.yr i ≤ 4996725) ∧
      (0 ≤ Table.entry t.tables.yg i ∧ Table.entry t.tables.yg i ≤ 9809850) ∧
      (32768 ≤ Table.entry t.tables.yb i ∧ Table.entry t.tables.yb i ≤ 1937873) ∧
      (-2819790 ≤ Table.entry t.tables.cbR i ∧ Table.entry t.tables.cbR i ≤ 0) ∧
      (-5536050 ≤ Table.entry t.tables.cbG i ∧ Table.entry t.tables.cbG i ≤ 0) ∧
      (8421375 ≤ Table.entry t.tables.cbB i ∧ Table.entry t.tables.cbB i ≤ 16777215) ∧
      (-6996945 ≤ Table.entry t.tables.crG i ∧ Table.entry t.tables.crG i ≤ 0) ∧
      (-1358895 ≤ Table.entry t.tables.crB i ∧ Table.entry t.tables.crB i ≤ 0)) ∧
    Table.entry t.tables.yr 0 = 0 ∧ Table.entry t.tables.yr 255 = 4996725 ∧
    Table.entry t.tables.yg 0 = 0 ∧ Table.entry t.tables.yg 255 = 9809850 ∧
    Table.entry t.tables.yb 0 = 32768 ∧ Table.entry t.tables.yb 255 = 1937873 ∧
    Table.entry t.tables.cbR 0 = 0 ∧ Table.entry t.tables.cbR 255 = -2819790 ∧
    Table.entry t.tables.cbG 0 = 0 ∧ Table.entry t.tables.cbG 255 = -5536050 ∧
    Table.entry t.tables.cbB 0 = 8421375 ∧ Table.entry t.tables.cbB 255 = 16777215 ∧
    Table.entry t.tables.crG 0 = 0 ∧ Table.entry t.tables.crG 255 = -6996945 ∧
    Table.entry t.tables.crB 0 = 0 ∧ Table.entry t.tables.crB 255 = -1358895

/-! ## The single-pixel commands -/

/-- spec/41_pixel_converter.md R155, R150: with TV = 1 PXY completes; RES_Y takes the exact sum of the three
table entries, shifted right by 16 (floor division by 65536), and nothing else changes but ERR and
BUSY. -/
def Obligations.PxyWritesLuma : Prop :=
  ∀ s : State, s.tv = true →
    exec .pxy s = .next { s with
      resY := BitVec.ofInt 32 ((Table.entry s.tables.yr s.pixin.r +
        Table.entry s.tables.yg s.pixin.g + Table.entry s.tables.yb s.pixin.b) / 65536)
      busy := false
      err := .ok }

/-- spec/41_pixel_converter.md R156, R150: with TV = 1 PXC completes; RES_CB and RES_CR take their sums
shifted right by 16, with T_CbB indexed by R for Cr, and RES_Y and all else but ERR and BUSY keep
their values. -/
def Obligations.PxcWritesChroma : Prop :=
  ∀ s : State, s.tv = true →
    exec .pxc s = .next { s with
      resCb := BitVec.ofInt 32 ((Table.entry s.tables.cbR s.pixin.r +
        Table.entry s.tables.cbG s.pixin.g + Table.entry s.tables.cbB s.pixin.b) / 65536)
      resCr := BitVec.ofInt 32 ((Table.entry s.tables.cbB s.pixin.r +
        Table.entry s.tables.crG s.pixin.g + Table.entry s.tables.crB s.pixin.b) / 65536)
      busy := false
      err := .ok }

/-- spec/41_pixel_converter.md R157: with TV = 1 PXYCC completes, and its three results are each exactly what
PXY and PXC leave for the same PIXIN; nothing else changes but ERR and BUSY. -/
def Obligations.PxyccCombinesPxyAndPxc : Prop :=
  ∀ s : State, s.tv = true → ∃ t y c, exec .pxycc s = .next t ∧ exec .pxy s = .next y ∧
    exec .pxc s = .next c ∧
    t = { s with resY := y.resY, resCb := c.resCb, resCr := c.resCr, busy := false, err := .ok }

/-- spec/41_pixel_converter.md R152, R153, R154: the closed forms of luma and chroma over the tables that
BUILD computes, for every pixel, and PXYCC leaves them. -/
def Obligations.ConversionClosedForms : Prop :=
  ∀ s t : State, exec .build s = .next t → ∀ p : Pixel,
    ∃ u, exec .pxycc { t with pixin := p } = .next u ∧
      (u.resY.toNat : Int) =
        (19595 * (p.r.toNat : Int) + 38470 * p.g.toNat + 7471 * p.b.toNat + 32768) / 65536 ∧
      (u.resCb.toNat : Int) =
        (-11058 * (p.r.toNat : Int) - 21710 * p.g.toNat + 32768 * p.b.toNat + 8421375) / 65536 ∧
      (u.resCr.toNat : Int) =
        (32768 * (p.r.toNat : Int) - 27439 * p.g.toNat - 5329 * p.b.toNat + 8421375) / 65536

/-- spec/41_pixel_converter.md R151: the range of each accumulator over the built tables, its ends and the
pixels that reach them, and that every sample is in [0,255] and reaches both ends. -/
def Obligations.ConversionRanges : Prop :=
  (∀ p : Pixel,
    (32768 ≤ builtTables.accY p ∧ builtTables.accY p ≤ 16744448) ∧
    (65535 ≤ builtTables.accCb p ∧ builtTables.accCb p ≤ 16777215) ∧
    (65535 ≤ builtTables.accCr p ∧ builtTables.accCr p ≤ 16777215) ∧
    (builtTables.yOf p).toNat ≤ 255 ∧ (builtTables.cbOf p).toNat ≤ 255 ∧
    (builtTables.crOf p).toNat ≤ 255) ∧
  builtTables.accY ⟨0, 0, 0⟩ = 32768 ∧ builtTables.accY ⟨255, 255, 255⟩ = 16744448 ∧
  builtTables.accCb ⟨255, 255, 0⟩ = 65535 ∧ builtTables.accCb ⟨0, 0, 255⟩ = 16777215 ∧
  builtTables.accCr ⟨0, 255, 255⟩ = 65535 ∧ builtTables.accCr ⟨255, 0, 0⟩ = 16777215 ∧
  builtTables.yOf ⟨0, 0, 0⟩ = 0 ∧ builtTables.yOf ⟨255, 255, 255⟩ = 255 ∧
  builtTables.cbOf ⟨255, 255, 0⟩ = 0 ∧ builtTables.cbOf ⟨0, 0, 255⟩ = 255 ∧
  builtTables.crOf ⟨0, 255, 255⟩ = 0 ∧ builtTables.crOf ⟨255, 0, 0⟩ = 255

/-- spec/40_table_builder.md R139, spec/41_pixel_converter.md R155, R156: the coefficient identities, and that
the luma of the grey (i,i,i) is i and its chroma 128, for every i. -/
def Obligations.GreyPixelsConvertToThemselves : Prop :=
  kYR + kYG + kYB = 65536 ∧ kCbR + kCbG = kCbB ∧ kCrG + kCrB = kCbB ∧
  ∀ s t : State, exec .build s = .next t → ∀ i : Byte,
    ∃ u, exec .pxycc { t with pixin := ⟨i, i, i⟩ } = .next u ∧
      u.resY.toNat = i.toNat ∧ u.resCb.toNat = 128 ∧ u.resCr.toNat = 128

/-- spec/41_pixel_converter.md R158, the accuracy property: every sample differs from the rounded reference
formula by at most 1. -/
def Obligations.AccuracyWithinOne : Prop :=
  ∀ p : Pixel,
    ((builtTables.yOf p).toNat - refY p ≤ 1 ∧ refY p - (builtTables.yOf p).toNat ≤ 1) ∧
    ((builtTables.cbOf p).toNat - refCb p ≤ 1 ∧ refCb p - (builtTables.cbOf p).toNat ≤ 1) ∧
    ((builtTables.crOf p).toNat - refCr p ≤ 1 ∧ refCr p - (builtTables.crOf p).toNat ≤ 1)

/-! ## The block commands -/

/-- spec/42_full_resolution.md R170: with TV = 1 and the region inside the pixel memory CVT444 completes,
whatever the pixels hold; word 8r + c of YB0, CB and CR is the conversion of pixel
BASE + r·STRIDE + c if the host has written it, and nothing else changes but ERR, BUSY and the
model's own count of the free samples' draws (notes/assumptions/3.md). -/
def Obligations.Cvt444ConvertsEveryPixel : Prop :=
  ∀ s : State, s.tv = true → s.pixBase.toNat + 7 * s.pixStride.toNat + 7 < s.nPix →
    ∃ t, exec .cvt444 s = .next t ∧
      t = { s with
        bufs := { s.bufs with yb0 := t.bufs.yb0, cb := t.bufs.cb, cr := t.bufs.cr }
        draws := s.draws + 1
        busy := false
        err := .ok } ∧
      ∀ r c, r < 8 → c < 8 → ∀ p : Pixel,
        s.pixel? (s.pixBase.toNat + r * s.pixStride.toNat + c) = some p →
        t.bufs.yb0[8 * r + c]? = some (s.tables.yOf p) ∧
        t.bufs.cb[8 * r + c]? = some (s.tables.cbOf p) ∧
        t.bufs.cr[8 * r + c]? = some (s.tables.crOf p)

/-- spec/42_full_resolution.md R171: a sample of CVT444 depends only on the pixel at its own block position
and on the tables, where the host has written that pixel. -/
def Obligations.Cvt444SampleSeesOnlyItsPixel : Prop :=
  ∀ s t s' t' : State, exec .cvt444 s = .next s' → exec .cvt444 t = .next t' → s'.err = .ok →
    t'.err = .ok → s.tables = t.tables → ∀ r c, r < 8 → c < 8 → ∀ p : Pixel,
    s.pixel? (s.pixBase.toNat + r * s.pixStride.toNat + c) = some p →
    t.pixel? (t.pixBase.toNat + r * t.pixStride.toNat + c) = some p →
    s'.bufs.yb0[8 * r + c]? = t'.bufs.yb0[8 * r + c]? ∧
    s'.bufs.cb[8 * r + c]? = t'.bufs.cb[8 * r + c]? ∧
    s'.bufs.cr[8 * r + c]? = t'.bufs.cr[8 * r + c]?

/-- spec/43_subsampled.md R181, R182: with TV = 1 and the region inside the pixel memory CVT420 h completes,
whatever the pixels hold; pixel (r, c), if the host has written it, gives its own luma to word
8r + c of YB(2h) when c < 8 and to word 8r + (c - 8) of YB(2h + 1) when c >= 8; the other pair of
luma buffers, every row of chroma outside 4h to 4h + 3, and all else but ERR, BUSY and the model's
own count of the free samples' draws keep their values.  That count, and what an unwritten pixel
gives, are the model's choice (notes/assumptions/3.md). -/
def Obligations.Cvt420PlacesLumaAtFullResolution : Prop :=
  ∀ (s : State) (h : Half), s.tv = true →
    s.pixBase.toNat + 7 * s.pixStride.toNat + 15 < s.nPix →
    ∃ t, exec (.cvt420 h) s = .next t ∧
      t = { s with bufs := t.bufs, draws := s.draws + 1, busy := false, err := .ok } ∧
      (∀ r c, r < 8 → c < 16 → ∀ p : Pixel,
        s.pixel? (s.pixBase.toNat + r * s.pixStride.toNat + c) = some p →
        (t.bufs.get (bufOfNumber (2 * h.toNat + c / 8)))[8 * r + c % 8]? =
          some (s.tables.yOf p)) ∧
      t.bufs.get (bufOfNumber (2 * (1 - h.toNat))) =
        s.bufs.get (bufOfNumber (2 * (1 - h.toNat))) ∧
      t.bufs.get (bufOfNumber (2 * (1 - h.toNat) + 1)) =
        s.bufs.get (bufOfNumber (2 * (1 - h.toNat) + 1)) ∧
      ∀ n, n < 64 → ¬(32 * h.toNat ≤ n ∧ n < 32 * h.toNat + 32) →
        t.bufs.cb[n]? = s.bufs.cb[n]? ∧ t.bufs.cr[n]? = s.bufs.cr[n]?

/-- spec/43_subsampled.md R183 to R187: the chroma of row pair j and column q is the chroma of the averaged
triple floor(sum / 4) of the pixels at rows 2j, 2j + 1 and columns 2q, 2q + 1, which the host has
written (notes/assumptions/3.md), and it goes to word 8·(4h + j) + q of CB and CR. -/
def Obligations.Cvt420ConvertsAveragedChroma : Prop :=
  ∀ (s : State) (h : Half), s.tv = true →
    s.pixBase.toNat + 7 * s.pixStride.toNat + 15 < s.nPix →
    ∃ t, exec (.cvt420 h) s = .next t ∧ ∀ j q, j < 4 → q < 8 → ∀ a b c d m : Pixel,
      s.pixel? (s.pixBase.toNat + 2 * j * s.pixStride.toNat + 2 * q) = some a →
      s.pixel? (s.pixBase.toNat + 2 * j * s.pixStride.toNat + 2 * q + 1) = some b →
      s.pixel? (s.pixBase.toNat + (2 * j + 1) * s.pixStride.toNat + 2 * q) = some c →
      s.pixel? (s.pixBase.toNat + (2 * j + 1) * s.pixStride.toNat + 2 * q + 1) = some d →
      m.r.toNat = (a.r.toNat + b.r.toNat + c.r.toNat + d.r.toNat) / 4 →
      m.g.toNat = (a.g.toNat + b.g.toNat + c.g.toNat + d.g.toNat) / 4 →
      m.b.toNat = (a.b.toNat + b.b.toNat + c.b.toNat + d.b.toNat) / 4 →
      t.bufs.cb[8 * (4 * h.toNat + j) + q]? = some (s.tables.cbOf m) ∧
      t.bufs.cr[8 * (4 * h.toNat + j) + q]? = some (s.tables.crOf m)

/-- spec/43_subsampled.md R189: the two commands of a 16×16 macroblock with top-left pixel b and row stride S
complete in either order, whatever the pixels hold.  In either order YB0 to YB3 hold the luma of
the written pixels of the four quadrants, and CB and CR the chroma of the written neighbourhoods;
and where the host has written the whole macroblock the two orders leave equal buffers
(what an unwritten pixel gives is in notes/assumptions/3.md). -/
def Obligations.MacroblockHalvesInEitherOrder : Prop :=
  ∀ (s : State) (b S : Nat), s.tv = true → s.nPix ≤ 16384 → 16 ≤ S →
    b + 15 * S + 15 < s.nPix →
    ∃ t1 t2 u1 u2,
      exec (.cvt420 .upper) (s.withGeometry b S) = .next t1 ∧
      exec (.cvt420 .lower) (t1.withGeometry (b + 8 * S) S) = .next t2 ∧
      exec (.cvt420 .lower) (s.withGeometry (b + 8 * S) S) = .next u1 ∧
      exec (.cvt420 .upper) (u1.withGeometry b S) = .next u2 ∧
      ((∀ r c, r < 16 → c < 16 → s.pixel? (b + r * S + c) ≠ none) → u2.bufs = t2.bufs) ∧
      ∀ v ∈ [t2, u2],
        (∀ r c, r < 16 → c < 16 → ∀ p : Pixel, s.pixel? (b + r * S + c) = some p →
          (v.bufs.get (bufOfNumber (2 * (r / 8) + c / 8)))[8 * (r % 8) + c % 8]? =
            some (s.tables.yOf p)) ∧
        ∀ j q, j < 8 → q < 8 → ∀ p1 p2 p3 p4 m : Pixel,
          s.pixel? (b + 2 * j * S + 2 * q) = some p1 →
          s.pixel? (b + 2 * j * S + 2 * q + 1) = some p2 →
          s.pixel? (b + (2 * j + 1) * S + 2 * q) = some p3 →
          s.pixel? (b + (2 * j + 1) * S + 2 * q + 1) = some p4 →
          m.r.toNat = (p1.r.toNat + p2.r.toNat + p3.r.toNat + p4.r.toNat) / 4 →
          m.g.toNat = (p1.g.toNat + p2.g.toNat + p3.g.toNat + p4.g.toNat) / 4 →
          m.b.toNat = (p1.b.toNat + p2.b.toNat + p3.b.toNat + p4.b.toNat) / 4 →
          v.bufs.cb[8 * j + q]? = some (s.tables.cbOf m) ∧
          v.bufs.cr[8 * j + q]? = some (s.tables.crOf m)

/-- spec/70_reset_and_hazards.md R243, spec/41_pixel_converter.md R151: from a state of the invariant every
word that a block command writes is in [0,255], whatever the pixels hold and whether or not the
host has written them. -/
def Obligations.BlockSamplesAreInRange : Prop :=
  ∀ s t : State, s.Inv →
    (exec .cvt444 s = .next t → t.err = .ok → ∀ n, n < 64 → ∀ v : Word,
      t.bufs.yb0[n]? = some v ∨ t.bufs.cb[n]? = some v ∨ t.bufs.cr[n]? = some v →
      v.toNat ≤ 255) ∧
    ∀ h : Half, exec (.cvt420 h) s = .next t → t.err = .ok →
      (∀ k n, k < 2 → n < 64 → ∀ v : Word,
        (t.bufs.get (bufOfNumber (2 * h.toNat + k)))[n]? = some v → v.toNat ≤ 255) ∧
      ∀ n, 32 * h.toNat ≤ n → n < 32 * h.toNat + 32 → ∀ v : Word,
        t.bufs.cb[n]? = some v ∨ t.bufs.cr[n]? = some v → v.toNat ≤ 255

/-! ## Errors of commands -/

/-- spec/60_exceptions.md R214: every conversion command raises NOTBUILT while TV = 0, whatever its geometry,
and changes nothing but ERR and BUSY. -/
def Obligations.ConversionsRaiseNotBuilt : Prop :=
  ∀ (s : State) (i : Instr), i ≠ .nop → i ≠ .build → s.tv = false →
    exec i s = .next { s with busy := false, err := .notBuilt }

/-- spec/60_exceptions.md R215: with TV = 1 a block command raises BOUNDS exactly when some pixel of its
region lies at or beyond N_PIX, and then it changes nothing but ERR and BUSY. -/
def Obligations.BlocksBeyondMemoryRaiseBounds : Prop :=
  ∀ (s : State) (i : Instr) (wd : Nat),
    (i = .cvt444 ∧ wd = 8) ∨ ((∃ h, i = .cvt420 h) ∧ wd = 16) → s.tv = true →
    ((∃ r c, r < 8 ∧ c < wd ∧ s.nPix ≤ s.pixBase.toNat + r * s.pixStride.toNat + c) →
      exec i s = .next { s with busy := false, err := .bounds }) ∧
    ((∀ r c, r < 8 → c < wd → s.pixBase.toNat + r * s.pixStride.toNat + c < s.nPix) →
      ∃ t, exec i s = .next t ∧ t.err = .ok)

/-- spec/60_exceptions.md R212: a command that completes with an error has written nothing but ERR and BUSY. -/
def Obligations.FailedCommandWritesNothing : Prop :=
  ∀ s t : State, s.busy = true → engineTurn s = .next t → t.err ≠ .ok →
    t = { s with busy := false, err := t.err }

/-- spec/10_state.md R21, R36, spec/70_reset_and_hazards.md R246: what no completion changes, and that each
clears BUSY: the operands, CUR, OVR, N_PIX and every byte of the pixel memory, and the model's own
host and turns to come (notes/assumptions/2.md and 4.md). -/
def Obligations.CompletionsKeepTheOperands : Prop :=
  ∀ s t : State, s.busy = true → engineTurn s = .next t →
    t.busy = false ∧ t.cur = s.cur ∧ t.ovr = s.ovr ∧ t.pixBase = s.pixBase ∧
    t.pixStride = s.pixStride ∧ t.pixin = s.pixin ∧ t.nPix = s.nPix ∧ t.pixMem = s.pixMem ∧
    (∀ a, t.byteAt a = s.byteAt a) ∧ t.host = s.host ∧ t.turns = s.turns

/-! ## Whole-machine rules -/

/-- spec/10_state.md R34: a step that changes the table set or TV is a reset, or the completion of BUILD,
which leaves the built tables and TV = 1. -/
def Obligations.OnlyBuildWritesTheTables : Prop :=
  ∀ s t : State, step s = .next t → t.tables ≠ s.tables ∨ t.tv ≠ s.tv →
    (s.nextTurn.1 = .reset ∧ t.tv = false) ∨
    (s.nextTurn.1 = .engine ∧ s.busy = true ∧ s.cur = 0x00000001#32 ∧
      t.tables = builtTables ∧ t.tv = true)

/-- spec/10_state.md R25, spec/60_exceptions.md R220: a step that changes ERR is a reset or a completion, which
clears BUSY. -/
def Obligations.ErrChangesOnlyAtCompletion : Prop :=
  ∀ s t : State, step s = .next t → t.err ≠ s.err →
    s.nextTurn.1 = .reset ∨ (s.nextTurn.1 = .engine ∧ s.busy = true ∧ t.busy = false)

/-- spec/10_state.md R21, R33, R35: a line of the host's program writes no table, buffer, result register or
status code. -/
def Obligations.HostTurnWritesNoOutput : Prop :=
  ∀ s : State, s.hostTurn.tables = s.tables ∧ s.hostTurn.tv = s.tv ∧ s.hostTurn.bufs = s.bufs ∧
    s.hostTurn.resY = s.resY ∧ s.hostTurn.resCb = s.resCb ∧ s.hostTurn.resCr = s.resCr ∧
    s.hostTurn.err = s.err ∧ s.hostTurn.nPix = s.nPix ∧ s.hostTurn.turns = s.turns

/-- spec/60_exceptions.md R217: a CMD write while BUSY = 1 gets OK, is discarded and sets OVR; and OVR stays 1
until an accepted CMD write or a reset. -/
def Obligations.OverrunStaysUntilAccepted : Prop :=
  (∀ (s : State) (v : Word), s.busy = true →
    s.respond (.write 0x0000 4 v) = .ok ∧
    s.afterAccess (.write 0x0000 4 v) = { s with ovr := true }) ∧
  ∀ s t : State, step s = .next t → s.ovr = true → t.ovr = false →
    s.nextTurn.1 = .reset ∨
    (s.nextTurn.1 = .host ∧ s.busy = false ∧ t.busy = true ∧
      ∃ v, s.host.line? = some (.access (.write 0x0000 4 v)) ∧ t.cur = v)

/-! ## Host accesses -/

/-- spec/60_exceptions.md R216: the exact causes of a BUSERR, for every access in every state with a legal
N_PIX, and that it has no effect. -/
def Obligations.BusErrorExactlyWhen : Prop :=
  ∀ (s : State) (x : Access) (a w : Nat), Config.LegalNPix s.nPix → a = x.offset.toNat →
    w = x.width →
    (s.respond x = .buserr ↔
      (¬(w = 1 ∨ w = 2 ∨ w = 4) ∨ a % w ≠ 0) ∨
      ((0x0024 ≤ a ∧ a ≤ 0x03FF) ∨ (0x0A00 ≤ a ∧ a ≤ 0x1FFF) ∨ 0x4000 + 3 * s.nPix ≤ a) ∨
      (w ≠ 4 ∧ ¬(0x4000 ≤ a ∧ a < 0x4000 + 3 * s.nPix)) ∨
      (x.isWrite = true ∧ (a = 0x0004 ∨ a = 0x0014 ∨ a = 0x0018 ∨ a = 0x001C ∨ a = 0x0020 ∨
        (0x0400 ≤ a ∧ a ≤ 0x09FF) ∨ (0x2000 ≤ a ∧ a ≤ 0x3FFF))) ∨
      (x.isWrite = false ∧ (0x2000 ≤ a ∧ a ≤ 0x3FFF) ∧ s.tv = false) ∨
      (s.busy = true ∧ ¬(x.isWrite = false ∧ a = 0x0004) ∧ ¬(x.isWrite = true ∧ a = 0x0000))) ∧
    (s.respond x = .buserr → s.afterAccess x = s)

/-- spec/20_memory.md R62: a host line whose access gets a BUSERR changes nothing of the core, gives no data
and moves the host one line on; what it leaves of the host is the model's choice
(notes/assumptions/2.md). -/
def Obligations.BusErrorLineChangesOnlyTheHost : Prop :=
  ∀ (s : State) (x : Access), s.host.line? = some (.access x) → s.respond x = .buserr →
    s.hostTurn = { s with host := { s.host with
      pos := s.host.pos + 1, responses := .buserr :: s.host.responses } }

/-- spec/20_memory.md R71: a read changes nothing; a write other than of CMD changes at most what it stores
to, which is the register at its offset or the w bytes of the pixel memory from its offset on; an
access other than a write of CMD is idempotent; an accepted write of CMD is not. -/
def Obligations.AccessesAreIdempotentButCmd : Prop :=
  (∀ (s : State) (a : Offset) (w : Nat), s.afterAccess (.read a w) = s) ∧
  (∀ (s t : State) (a : Offset) (w : Nat) (d : Word), t = s.afterAccess (.write a w d) →
    (a.toNat = 0x0008 → t = { s with pixBase := t.pixBase }) ∧
    (a.toNat = 0x000C → t = { s with pixStride := t.pixStride }) ∧
    (a.toNat = 0x0010 → t = { s with pixin := t.pixin }) ∧
    (0x4000 ≤ a.toNat → t = { s with pixMem := t.pixMem } ∧
      ∀ x, 0x4000 + x < a.toNat ∨ a.toNat + w ≤ 0x4000 + x →
        t.byte? x = s.byte? x ∧ t.byteAt x = s.byteAt x) ∧
    (a.toNat ∉ [0x0000, 0x0008, 0x000C, 0x0010] → a.toNat < 0x4000 → t = s)) ∧
  (∀ (s : State) (x : Access), ¬(x.isWrite = true ∧ x.offset.toNat = 0x0000) →
    (s.afterAccess x).afterAccess x = s.afterAccess x ∧
    (s.afterAccess x).respond x = s.respond x) ∧
  (∀ (s : State) (v : Word), s.busy = false →
    (s.afterAccess (.write 0x0000 4 v)).afterAccess (.write 0x0000 4 v) ≠
      s.afterAccess (.write 0x0000 4 v))

/-- spec/20_memory.md R80: while BUSY = 1 a read of STATUS returns its value, a write of CMD gets OK and sets
OVR, and every other access is a BUSERR. -/
def Obligations.BusyAcceptsTwoAccesses : Prop :=
  ∀ s : State, s.busy = true →
    s.respond (.read 0x0004 4) = .data s.statusWord ∧
    (∀ v : Word, s.respond (.write 0x0000 4 v) = .ok ∧
      s.afterAccess (.write 0x0000 4 v) = { s with ovr := true }) ∧
    ∀ x : Access, x ≠ .read 0x0004 4 → (∀ v : Word, x ≠ .write 0x0000 4 v) →
      s.respond x = .buserr ∧ s.afterAccess x = s

/-- spec/10_state.md R24: a CMD write while BUSY = 0 accepts any word; while BUSY = 1 it is discarded; a CMD
read returns 0 while BUSY = 0 and is a BUSERR while BUSY = 1. -/
def Obligations.CmdWriteAcceptsOrDiscards : Prop :=
  ∀ (s : State) (v : Word),
    s.respond (.write 0x0000 4 v) = .ok ∧
    (s.busy = false →
      s.afterAccess (.write 0x0000 4 v) = { s with cur := v, busy := true, ovr := false }) ∧
    (s.busy = true → s.afterAccess (.write 0x0000 4 v) = { s with ovr := true }) ∧
    s.respond (.read 0x0000 4) = if s.busy then .buserr else .data 0x00000000#32

/-- spec/10_state.md R32, R27, R28, R29: a write of PIX_BASE, PIX_STRIDE or PIXIN changes its own register
only: BASE and STRIDE take bits [15:0], and R, G and B take bits [7:0], [15:8] and [23:16].  Their
reserved bits ignore a write and read 0, the other bits read as they are held, and the reserved
bits of STATUS and CFG read 0. -/
def Obligations.ReservedBitsReadZero : Prop :=
  (∀ (s : State) (v : Word), s.busy = false →
    s.afterAccess (.write 0x0008 4 v) = { s with pixBase := BitVec.ofNat 16 v.toNat } ∧
    s.afterAccess (.write 0x000C 4 v) = { s with pixStride := BitVec.ofNat 16 v.toNat } ∧
    s.afterAccess (.write 0x0010 4 v) = { s with
      pixin := ⟨BitVec.ofNat 8 v.toNat, BitVec.ofNat 8 (v.toNat / 2 ^ 8),
        BitVec.ofNat 8 (v.toNat / 2 ^ 16)⟩ }) ∧
  (∀ s : State, s.busy = false →
    s.respond (.read 0x0008 4) = .data (BitVec.ofNat 32 s.pixBase.toNat) ∧
    s.respond (.read 0x000C 4) = .data (BitVec.ofNat 32 s.pixStride.toNat) ∧
    s.respond (.read 0x0010 4) = .data (BitVec.ofNat 32
      (s.pixin.r.toNat + 2 ^ 8 * s.pixin.g.toNat + 2 ^ 16 * s.pixin.b.toNat))) ∧
  (∀ (s : State) (v : Word), s.busy = false →
    (s.afterAccess (.write 0x0008 4 v)).respond (.read 0x0008 4) = .data (v &&& 0x0000FFFF#32) ∧
    (s.afterAccess (.write 0x000C 4 v)).respond (.read 0x000C 4) = .data (v &&& 0x0000FFFF#32) ∧
    (s.afterAccess (.write 0x0010 4 v)).respond (.read 0x0010 4) = .data (v &&& 0x00FFFFFF#32)) ∧
  ∀ (s : State) (v : Word),
    (s.respond (.read 0x0004 4) = .data v → v &&& 0xFFFFFF08#32 = 0) ∧
    (s.respond (.read 0x0020 4) = .data v → v &&& 0xFFFF0000#32 = 0)

/-- spec/10_state.md R25, R26: in every state a read of STATUS returns BUSY in bit 0, TV in bit 1, OVR in bit
2 and the code of ERR, 0 to 3, in bits [7:4]. -/
def Obligations.StatusReadsItsFields : Prop :=
  ∀ s : State, ∃ v : Word, s.respond (.read 0x0004 4) = .data v ∧
    v.toNat = s.busy.toNat + 2 * s.tv.toNat + 4 * s.ovr.toNat +
      16 * (match s.err with
        | .ok => 0
        | .illegal => 1
        | .notBuilt => 2
        | .bounds => 3)

/-- spec/10_state.md R30: CFG reads N_PIX, and no event changes it. -/
def Obligations.CfgReadsNPix : Prop :=
  (∀ s : State, Config.LegalNPix s.nPix → s.busy = false →
    ∃ v : Word, s.respond (.read 0x0020 4) = .data v ∧ v.toNat = s.nPix) ∧
  ∀ s t : State, step s = .next t → t.nPix = s.nPix

/-- spec/10_state.md R31: while BUSY = 0 the three result registers read as the words they hold. -/
def Obligations.ResultRegistersReadBack : Prop :=
  ∀ s : State, s.busy = false → s.respond (.read 0x0014 4) = .data s.resY ∧
    s.respond (.read 0x0018 4) = .data s.resCb ∧ s.respond (.read 0x001C 4) = .data s.resCr

/-- spec/20_memory.md R65, R66: an aligned access of width w at byte p of the pixel memory is accepted while
BUSY = 0; byte k of the value, counting from the lowest, is the byte at p + k, for reads and for
writes of every width.  That the value of a narrow read is zero above its width, and that a narrow
write ignores the data above its width, is the model's reading (notes/assumptions/7.md). -/
def Obligations.PixelMemoryIsLittleEndian : Prop :=
  ∀ (s : State) (p w : Nat) (o : Offset), s.busy = false → Config.LegalNPix s.nPix →
    w = 1 ∨ w = 2 ∨ w = 4 → p % w = 0 → p < 3 * s.nPix → o.toNat = 0x4000 + p →
    (∃ v : Word, s.respond (.read o w) = .data v ∧ v.toNat < 256 ^ w ∧
      ∀ k, k < w → v.toNat / 256 ^ k % 256 = (s.byteAt (p + k)).toNat) ∧
    ∀ d : Word, s.respond (.write o w d) = .ok ∧
      ∀ k, k < w →
        ((s.afterAccess (.write o w d)).byteAt (p + k)).toNat = d.toNat / 256 ^ k % 256

/-- spec/20_memory.md R66, R71: an accepted write of the pixel memory writes its own w bytes and leaves every
other byte, written or not, as it was, and a read of the same width at the same offset then returns
the bytes written, zero above the width (the model's reading, notes/assumptions/7.md). -/
def Obligations.PixelWriteChangesOnlyItsBytes : Prop :=
  ∀ (s t : State) (p w : Nat) (o : Offset) (d : Word), s.busy = false →
    Config.LegalNPix s.nPix → w = 1 ∨ w = 2 ∨ w = 4 → p % w = 0 → p < 3 * s.nPix →
    o.toNat = 0x4000 + p → t = s.afterAccess (.write o w d) →
    t = { s with pixMem := t.pixMem } ∧
    (∀ x, x < p ∨ p + w ≤ x → t.byte? x = s.byte? x ∧ t.byteAt x = s.byteAt x) ∧
    (∀ k, k < w → t.byte? (p + k) = some (BitVec.ofNat 8 (d.toNat / 256 ^ k))) ∧
    ∃ v : Word, t.respond (.read o w) = .data v ∧ v.toNat = d.toNat % 256 ^ w

/-- spec/20_memory.md R67: three byte writes at 3p, 3p + 1 and 3p + 2 make pixel p the written triple
(R, G, B), and leave every other pixel, written or not, alone. -/
def Obligations.PixelIsThreeBytes : Prop :=
  ∀ (s t u v : State) (p : Nat) (o1 o2 o3 : Offset) (r g b : Byte), s.busy = false →
    Config.LegalNPix s.nPix → p < s.nPix → o1.toNat = 0x4000 + 3 * p →
    o2.toNat = 0x4000 + 3 * p + 1 → o3.toNat = 0x4000 + 3 * p + 2 →
    t = s.afterAccess (.write o1 1 (r.setWidth 32)) →
    u = t.afterAccess (.write o2 1 (g.setWidth 32)) →
    v = u.afterAccess (.write o3 1 (b.setWidth 32)) →
    v.pixel? p = some ⟨r, g, b⟩ ∧ ∀ q, q ≠ p → v.pixel? q = s.pixel? q

/-- spec/20_memory.md R69: while BUSY = 0 word n of output buffer k is read at 0x0400 + 0x100·k + 4·n, and a
write there is a BUSERR. -/
def Obligations.BuffersReadAtTheirOffsets : Prop :=
  ∀ (s : State) (k n : Nat) (o : Offset) (b : Buffer) (v : Word), s.busy = false →
    o.toNat = 0x0400 + 0x100 * k + 4 * n → n < 64 →
    [s.bufs.yb0, s.bufs.yb1, s.bufs.yb2, s.bufs.yb3, s.bufs.cb, s.bufs.cr][k]? = some b →
    b[n]? = some v →
    s.respond (.read o 4) = .data v ∧ ∀ d, s.respond (.write o 4 d) = .buserr

/-- spec/20_memory.md R70: entry i of lookup table t is read at 0x2000 + 0x400·t + 4·i while TV = 1 and
BUSY = 0; a read while TV = 0 and a write at any time is a BUSERR. -/
def Obligations.TablesReadAtTheirOffsets : Prop :=
  ∀ (s : State) (t i : Nat) (o : Offset) (x : Table) (v : Word),
    o.toNat = 0x2000 + 0x400 * t + 4 * i → i < 256 →
    [s.tables.yr, s.tables.yg, s.tables.yb, s.tables.cbR, s.tables.cbG, s.tables.cbB, s.tables.crG,
      s.tables.crB][t]? = some x →
    x[i]? = some v →
    (s.tv = true → s.busy = false → s.respond (.read o 4) = .data v) ∧
    (s.tv = false → s.respond (.read o 4) = .buserr) ∧
    (s.busy = true → s.respond (.read o 4) = .buserr) ∧
    ∀ d, s.respond (.write o 4 d) = .buserr

/-! ## The two agents -/

/-- spec/20_memory.md R74, R80: while BUSY = 1 a line of the host's program changes nothing of the core but
OVR, so a command reads its operands as they stood at acceptance. -/
def Obligations.BusyHostTurnChangesOnlyOvr : Prop :=
  ∀ s : State, s.busy = true →
    s.hostTurn = { s with ovr := s.hostTurn.ovr, host := s.hostTurn.host }

/-- spec/20_memory.md R74, spec/70_reset_and_hazards.md R246: any number of host lines between a command's
acceptance and its completion leave the same core state as none, but for OVR. -/
def Obligations.CompletionIgnoresHostTurns : Prop :=
  ∀ (s : State) (n : Nat) (ts : List Turn), s.busy = true →
    s.turns = List.replicate n .host ++ .engine :: ts →
    ∃ t u : State, Sys2Proof.core.run (n + 1) s = .next t ∧
      step { s with turns := .engine :: ts } = .next u ∧
      t = { u with ovr := t.ovr, host := t.host }

/-- spec/70_reset_and_hazards.md R246: every accepted command completes (or a reset abandons it) after
finitely many host accesses.  The bound is the model's: it holds one finite list of the turns to
come, and with none left the engine moves (notes/assumptions/4.md). -/
def Obligations.AcceptedCommandCompletes : Prop :=
  ∀ s : State, s.busy = true →
    ∃ k, k ≤ s.turns.length + 1 ∧ ∃ t : State, Sys2Proof.core.run k s = .next t ∧ t.busy = false

/-- spec/10_state.md R24, spec/70_reset_and_hazards.md R246: a command that the host writes to CMD while
BUSY = 0 is the command that the engine's next turn performs.  What the access leaves of the host
(one line on, OK noted, v kept) is the model's choice (notes/assumptions/2.md). -/
def Obligations.HostIssuedCommandRuns : Prop :=
  ∀ (s : State) (i : Instr) (ts : List Turn), s.busy = false →
    s.host.line? = some (.access (.write 0x0000 4 (encode i))) →
    s.turns = .host :: .engine :: ts →
    Sys2Proof.core.run 2 s = exec i { s with
      cur := encode i
      busy := true
      ovr := false
      host := { s.host with pos := s.host.pos + 1, responses := .ok :: s.host.responses }
      turns := ts }

/-- spec/30_encoding.md R108: the two lines of WAIT leave the core alone; they go on to the line after WAIT
when BUSY = 0 and back to its read when BUSY = 1.  That its read and its branch are two events of
two host turns, and how the host's line number moves, is the model's choice
(notes/assumptions/2.md). -/
def Obligations.WaitPollsUntilIdle : Prop :=
  ∀ (s : State) (ts : List Turn), s.turns = .host :: .host :: ts →
    s.host.script[s.host.pos]? = some (.access (.read 0x0004 4)) →
    s.host.script[s.host.pos + 1]? = some (.bnz 0x1 s.host.pos) →
    ∃ t : State, Sys2Proof.core.run 2 s = .next t ∧
      t = { s with host := t.host, turns := ts } ∧
      t.host.pos = if s.busy then s.host.pos else s.host.pos + 2

/-- spec/30_encoding.md R107: a read line of the host's program makes v the value read, and BNZ goes to its
target when (v AND mask) != 0, that is when some bit is 1 in both, and else one line on; neither
changes the core.  That each is one event is the model's choice (notes/assumptions/2.md). -/
def Obligations.BranchTestsLastReadValue : Prop :=
  ∀ (s : State) (ts : List Turn), s.turns = .host :: ts →
    (∀ (a : Offset) (w : Nat) (v : Word), s.host.line? = some (.access (.read a w)) →
      s.respond (.read a w) = .data v →
      ∃ t : State, step s = .next t ∧ t = { s with host := t.host, turns := ts } ∧
        t.host.v = v ∧ t.host.pos = s.host.pos + 1 ∧ t.host.script = s.host.script) ∧
    ∀ (mask : Word) (target : Nat), s.host.line? = some (.bnz mask target) →
      ((∃ k, s.host.v.getLsbD k = true ∧ mask.getLsbD k = true) →
        step s = .next { s with host := { s.host with pos := target }, turns := ts }) ∧
      ((∀ k, s.host.v.getLsbD k = true → mask.getLsbD k = false) →
        step s = .next { s with host := { s.host with pos := s.host.pos + 1 }, turns := ts })

/-- spec/30_encoding.md R108: the command words, and the expansion E of each pseudo-instruction x, wherever
it stands in a well-formed script: E comes after the lines of what stands before x, and the branch
of WAIT goes to the line number of its own read. -/
def Obligations.PseudoInstructionsExpand : Prop :=
  encode .nop = 0x00000000#32 ∧ encode .build = 0x00000001#32 ∧ encode .pxy = 0x00000002#32 ∧
  encode .pxc = 0x00000003#32 ∧ encode .pxycc = 0x00000004#32 ∧ encode .cvt444 = 0x00000005#32 ∧
  (∀ h : Half, encode (.cvt420 h) = 0x00000006#32 ||| BitVec.ofNat 32 h.toNat <<< 4) ∧
  ∀ (pre post : List Src) (x : Src) (E : List Line), WellFormed.script (pre ++ x :: post) = true →
    (∃ i, x = .cmd i ∧ E = [.access (.write 0x0000 4 (encode i))]) ∨
    (∃ r g b, x = .setpix r g b ∧ E = [.access (.write 0x0010 4
      (BitVec.ofNat 32 b <<< 16 ||| BitVec.ofNat 32 g <<< 8 ||| BitVec.ofNat 32 r))]) ∨
    (∃ base stride, x = .setgeom base stride ∧
      E = [.access (.write 0x0008 4 (BitVec.ofNat 32 base)),
        .access (.write 0x000C 4 (BitVec.ofNat 32 stride))]) ∨
    (x = .wait ∧ E = [.access (.read 0x0004 4), .bnz 0x1 (scriptSize pre)]) →
    ∃ before after, assemble (pre ++ x :: post) = some (before ++ E ++ after) ∧
      before.length = scriptSize pre ∧ E.length = scriptSize [x]

/-- spec/30_encoding.md R107: each access line of a well-formed script is one access of its width, offset
and value; and a branch goes to the line number of its label, which is how many lines stand before
the label.  Which scripts are well formed is the model's choice (notes/assumptions/12.md). -/
def Obligations.BranchesGoToTheirLabels : Prop :=
  (∀ (pre post : List Src) (x : Src) (l : Line), WellFormed.script (pre ++ x :: post) = true →
    (∃ w o v, x = .write w o v ∧ l = .access (.write o w v)) ∨
    (∃ w o, x = .read w o ∧ l = .access (.read o w)) ∨
    (∃ mask k a b, x = .bnz mask k ∧ pre ++ x :: post = a ++ .label k :: b ∧
      l = .bnz mask (scriptSize a)) →
    ∃ before after, assemble (pre ++ x :: post) = some (before ++ l :: after) ∧
      before.length = scriptSize pre) ∧
  (∀ xs ys : List Src, scriptSize (xs ++ ys) = scriptSize xs + scriptSize ys) ∧
  ∀ k : Nat, scriptSize [.label k] = 0

/-- spec/30_encoding.md R107, R108: a well-formed script assembles, to as many lines as its source lines
expand to, and every branch goes to a line of the script or to its end.  Which scripts are well
formed, and that a label at the end names the end, is the model's choice
(notes/assumptions/12.md). -/
def Obligations.AssembledBranchesStayInTheScript : Prop :=
  ∀ prog : List Src, WellFormed.script prog = true →
    ∃ lines, assemble prog = some lines ∧ lines.length = scriptSize prog ∧
      ∀ mask target, Line.bnz mask target ∈ lines → target ≤ lines.length

/-! ## Reset and the invariant -/

/-- spec/10_state.md R40, spec/70_reset_and_hazards.md R240, R241: a reset puts the status, operand and result
registers to 0 and abandons a command in progress; N_PIX is a constant.  That reset leaves the host
and the turns to come alone is the model's choice (notes/assumptions/2.md). -/
def Obligations.ResetClearsTheRegisters : Prop :=
  ∀ (s : State) (ts : List Turn), s.turns = .reset :: ts →
    ∃ t, step s = .next t ∧ t.busy = false ∧ t.tv = false ∧ t.ovr = false ∧ t.err = .ok ∧
      t.cur = 0 ∧ t.pixBase = 0 ∧ t.pixStride = 0 ∧ t.pixin = ⟨0, 0, 0⟩ ∧ t.resY = 0 ∧
      t.resCb = 0 ∧ t.resCr = 0 ∧ t.nPix = s.nPix ∧
      t.respond (.read 0x0004 4) = .data 0x00000000#32 ∧ t.host = s.host ∧ t.turns = ts

/-- spec/10_state.md R40: the state after reset meets the invariant, for every legal N_PIX (R6). -/
def Obligations.ResetMeetsTheInvariant : Prop :=
  State.reset.Inv ∧
  ∀ (n e : Nat) (h : HostAgent) (ts : List Turn), Config.LegalNPix n →
    (State.resetWith n e h ts).Inv

/-- spec/00_scope.md R6, spec/10_state.md R31, R34, R36: every event keeps the invariant: a legal N_PIX, the
canonical form of the pixel memory and its bound, the built tables while TV = 1, and result
registers in [0,255]. -/
def Obligations.EveryStepKeepsTheInvariant : Prop :=
  ∀ s t : State, s.Inv → step s = .next t → t.Inv
end

