-- ==== Sys2Proof/Laws/Memory.lean ====
section
/-!
SUPPORT. The laws of the pixel memory: a read after a write, the canonical form, and the bytes of a
multi-byte access.
-/

namespace Sys2Proof.Machine.Memory

@[simp] theorem get?_nil (a : Nat) : get? [] a = none := rfl

@[simp] theorem wf_nil : wf [] = true := rfl

/-- Reading the byte just written. -/
@[simp] theorem get?_set_self (m : Memory) (a : Nat) (b : Byte) : get? (set m a b) a = some b := by
  induction m with
  | nil => simp [set, get?]
  | cons c rest ih =>
    obtain ⟨k, v⟩ := c
    simp only [set]
    split
    · simp [get?]
    · split
      · simp [get?]
      · simp_all [get?]

/-- A write leaves every other byte alone. -/
theorem get?_set_of_ne (m : Memory) (a : Nat) (b : Byte) {x : Nat} (h : x ≠ a) :
    get? (set m a b) x = get? m x := by
  induction m with
  | nil =>
    simp only [set, get?, h, if_false]
    split <;> rfl
  | cons c rest ih =>
    obtain ⟨k, v⟩ := c
    simp only [set]
    split
    · simp only [get?, h, if_false]
      split
      · split
        · omega
        · split
          · rfl
          · omega
      · rfl
    · split
      · subst_vars; simp [get?, h]
      · simp only [get?, ih]

/-- The key that a write adds is the only new key. -/
theorem mem_set {m : Memory} {a : Nat} {b : Byte} {c : Host.Cell} (h : c ∈ set m a b) :
    c.1 = a ∨ c ∈ m := by
  induction m with
  | nil => simp_all [set]
  | cons d rest ih =>
    obtain ⟨k, v⟩ := d
    simp only [set] at h
    split at h
    · rcases List.mem_cons.mp h with rfl | h
      · exact .inl rfl
      · exact .inr h
    · split at h
      · rcases List.mem_cons.mp h with rfl | h
        · exact .inl rfl
        · exact .inr (List.mem_cons_of_mem _ h)
      · rcases List.mem_cons.mp h with rfl | h
        · exact .inr (by simp)
        · exact (ih h).imp id (List.mem_cons_of_mem _)

/-- The canonical form, cell by cell: the keys after the first are above it. -/
theorem wf_cons_iff (k : Nat) (v : Byte) (rest : Memory) :
    wf ((k, v) :: rest) = true ↔ (∀ c ∈ rest, k < c.1) ∧ wf rest = true := by
  induction rest generalizing k v with
  | nil => simp [wf]
  | cons d rest ih =>
    obtain ⟨l, w⟩ := d
    simp only [wf, Bool.and_eq_true, decide_eq_true_eq, List.mem_cons, forall_eq_or_imp]
    constructor
    · rintro ⟨h, h'⟩
      exact ⟨⟨h, fun c hc => lt_trans h ((ih l w).mp h' |>.1 c hc)⟩, h'⟩
    · rintro ⟨⟨h, -⟩, h'⟩
      exact ⟨h, h'⟩

/-- A write keeps the canonical form. -/
theorem set_wf {m : Memory} (a : Nat) (b : Byte) (h : wf m = true) : wf (set m a b) = true := by
  induction m with
  | nil => rfl
  | cons d rest ih =>
    obtain ⟨k, v⟩ := d
    obtain ⟨hk, hr⟩ := (wf_cons_iff k v rest).mp h
    simp only [set]
    split
    · rename_i hlt
      exact (wf_cons_iff _ _ _).mpr ⟨by
        intro c hc
        rcases List.mem_cons.mp hc with rfl | hc
        · exact hlt
        · exact lt_trans hlt (hk c hc), h⟩
    · split
      · rename_i heq
        exact (wf_cons_iff _ _ _).mpr ⟨heq ▸ hk, hr⟩
      · rename_i h1 h2
        exact (wf_cons_iff _ _ _).mpr ⟨fun c hc => (mem_set hc).elim (by omega) (hk c), ih hr⟩

/-- A write inside the pixel memory lists no byte outside it. -/
theorem set_inside {m : Memory} {n a : Nat} (b : Byte) (h : Inside m n) (ha : a < 3 * n) :
    Inside (set m a b) n :=
  fun c hc => (mem_set hc).elim (fun e => e ▸ ha) (h c)

@[simp] theorem write_zero (m : Memory) (a v : Nat) : write m a 0 v = m := rfl

theorem write_succ (m : Memory) (a n v : Nat) :
    write m a (n + 1) v = write (set m a (BitVec.ofNat 8 v)) (a + 1) n (v / 256) := rfl

/-- A multi-byte write keeps the canonical form. -/
theorem write_wf {m : Memory} (a n v : Nat) (h : wf m = true) : wf (write m a n v) = true := by
  induction n generalizing m a v with
  | zero => exact h
  | succ n ih => exact ih _ _ (set_wf _ _ h)

/-- A multi-byte write inside the pixel memory lists no byte outside it. -/
theorem write_inside {m : Memory} {k a n : Nat} (v : Nat) (h : Inside m k) (ha : a + n ≤ 3 * k) :
    Inside (write m a n v) k := by
  induction n generalizing m a v with
  | zero => exact h
  | succ n ih => exact ih _ (set_inside _ h (by omega)) (by omega)

/-- A write of n bytes from a leaves every other byte alone. -/
theorem get?_write_of_outside (m : Memory) {a n x : Nat} (v : Nat) (h : x < a ∨ a + n ≤ x) :
    get? (write m a n v) x = get? m x := by
  induction n generalizing m a v with
  | zero => rfl
  | succ n ih => rw [write_succ, ih _ _ (by omega), get?_set_of_ne _ _ _ (by omega)]

/-- Byte k of a write of n bytes is byte k of the value, counting from the lowest. -/
theorem get?_write_of_inside (m : Memory) {n k : Nat} (a v : Nat) (h : k < n) :
    get? (write m a n v) (a + k) = some (BitVec.ofNat 8 (v / 256 ^ k)) := by
  induction n generalizing m a v k with
  | zero => omega
  | succ n ih =>
    rw [write_succ]
    cases k with
    | zero => rw [get?_write_of_outside _ _ (by omega)]; simp
    | succ k =>
      rw [show a + (k + 1) = a + 1 + k by omega, ih _ _ _ (by omega), Nat.div_div_eq_div_mul,
        pow_succ']

end Sys2Proof.Machine.Memory

namespace Sys2Proof.Machine.State

/-- The memory that reset leaves has the canonical form. -/
theorem reset_memory_wf : Memory.wf State.reset.pixMem = true := rfl

/-- The bytes that a write stores are written. -/
theorem memWrite_byte?_of_inside (s : State) {n k : Nat} (a v : Nat) (h : k < n) :
    (s.memWrite a n v).byte? (a + k) = some (BitVec.ofNat 8 (v / 256 ^ k)) :=
  Memory.get?_write_of_inside _ _ _ h

/-- A write leaves whether another byte is written, and its value, alone. -/
theorem memWrite_byte?_of_outside (s : State) {a n x : Nat} (v : Nat) (h : x < a ∨ a + n ≤ x) :
    (s.memWrite a n v).byte? x = s.byte? x :=
  Memory.get?_write_of_outside _ _ h

/-- The bytes that a write stores. -/
theorem memWrite_byteAt_of_inside (s : State) {n k : Nat} (a v : Nat) (h : k < n) :
    (s.memWrite a n v).byteAt (a + k) = BitVec.ofNat 8 (v / 256 ^ k) := by
  rw [byteAt, memWrite_byte?_of_inside _ _ _ h]; rfl

/-- The bytes that a write leaves alone. -/
theorem memWrite_byteAt_of_outside (s : State) {a n x : Nat} (v : Nat) (h : x < a ∨ a + n ≤ x) :
    (s.memWrite a n v).byteAt x = s.byteAt x := by
  rw [byteAt, memWrite_byte?_of_outside _ _ h]; rfl

/-- A pixel is the written triple exactly when its three bytes are (spec/20_memory.md R67). -/
theorem pixel?_eq_some_iff (s : State) (p : Nat) (x : Pixel) :
    s.pixel? p = some x ↔ s.byte? (3 * p) = some x.r ∧ s.byte? (3 * p + 1) = some x.g ∧
      s.byte? (3 * p + 2) = some x.b := by
  obtain ⟨r, g, b⟩ := x
  rw [pixel?]
  cases s.byte? (3 * p) <;> cases s.byte? (3 * p + 1) <;> cases s.byte? (3 * p + 2) <;>
    simp

/-- A pixel is the same where its three bytes are. -/
theorem pixel?_congr {s t : State} {p : Nat}
    (h : ∀ k, k < 3 → s.byte? (3 * p + k) = t.byte? (3 * p + k)) : s.pixel? p = t.pixel? p := by
  have h0 := h 0 (by omega)
  rw [pixel?, pixel?, ← h 1 (by omega), ← h 2 (by omega), ← Nat.add_zero (3 * p), h0]

@[simp] theorem memRead_zero (s : State) (a : Nat) : s.memRead a 0 = 0 := rfl

theorem memRead_succ (s : State) (a n : Nat) :
    s.memRead a (n + 1) = (s.byteAt a).toNat + 256 * s.memRead (a + 1) n := rfl

/-- A read of n bytes is a number of n bytes. -/
theorem memRead_lt (s : State) (a n : Nat) : s.memRead a n < 256 ^ n := by
  induction n generalizing a with
  | zero => simp
  | succ n ih =>
    have h := ih (a + 1)
    have hb := (s.byteAt a).isLt
    rw [memRead_succ, pow_succ]
    omega

/-- Byte k of a read, counting from the lowest, is the byte at offset a + k
(spec/20_memory.md R65). -/
theorem memRead_digit (s : State) (a : Nat) {n k : Nat} (h : k < n) :
    s.memRead a n / 256 ^ k % 256 = (s.byteAt (a + k)).toNat := by
  induction n generalizing a k with
  | zero => omega
  | succ n ih =>
    have hb := (s.byteAt a).isLt
    rw [memRead_succ]
    cases k with
    | zero => simp; omega
    | succ k =>
      have hd : ((s.byteAt a).toNat + 256 * s.memRead (a + 1) n) / 256 = s.memRead (a + 1) n := by
        omega
      rw [pow_succ', ← Nat.div_div_eq_div_mul, hd, ih (a + 1) (by omega)]
      congr 2
      omega

/-- A read of what was just written gives the written bytes. -/
theorem memRead_memWrite (s : State) (a n v : Nat) :
    (s.memWrite a n v).memRead a n = v % 256 ^ n := by
  have key : ∀ k j, j + k = n → (s.memWrite a n v).memRead (a + j) k = v / 256 ^ j % 256 ^ k := by
    intro k
    induction k with
    | zero => intro j _; simp [Nat.mod_one]
    | succ k ih =>
      intro j hj
      rw [memRead_succ, memWrite_byteAt_of_inside _ _ _ (by omega), Nat.add_assoc,
        ih (j + 1) (by omega), pow_succ 256 j, ← Nat.div_div_eq_div_mul, pow_succ' 256 k,
        Nat.mod_mul, BitVec.toNat_ofNat]
  simpa using key n 0 (by omega)

end Sys2Proof.Machine.State
end

