-- ==== Sys2Proof/Laws/State.lean ====
section
/-!
SUPPORT. What each named update of the state leaves in each field: one lemma per field per update,
true by rfl, so that no proof unfolds a record update.
-/

namespace Sys2Proof.Machine.State

section complete

variable (s : State) (c : ErrCode)

@[simp] theorem complete_cur : (s.complete c).cur = s.cur := rfl
@[simp] theorem complete_busy : (s.complete c).busy = false := rfl
@[simp] theorem complete_tv : (s.complete c).tv = s.tv := rfl
@[simp] theorem complete_ovr : (s.complete c).ovr = s.ovr := rfl
@[simp] theorem complete_err : (s.complete c).err = c := rfl
@[simp] theorem complete_pixBase : (s.complete c).pixBase = s.pixBase := rfl
@[simp] theorem complete_pixStride : (s.complete c).pixStride = s.pixStride := rfl
@[simp] theorem complete_pixin : (s.complete c).pixin = s.pixin := rfl
@[simp] theorem complete_resY : (s.complete c).resY = s.resY := rfl
@[simp] theorem complete_resCb : (s.complete c).resCb = s.resCb := rfl
@[simp] theorem complete_resCr : (s.complete c).resCr = s.resCr := rfl
@[simp] theorem complete_nPix : (s.complete c).nPix = s.nPix := rfl
@[simp] theorem complete_tables : (s.complete c).tables = s.tables := rfl
@[simp] theorem complete_bufs : (s.complete c).bufs = s.bufs := rfl
@[simp] theorem complete_pixMem : (s.complete c).pixMem = s.pixMem := rfl
@[simp] theorem complete_epoch : (s.complete c).epoch = s.epoch := rfl
@[simp] theorem complete_draws : (s.complete c).draws = s.draws := rfl
@[simp] theorem complete_host : (s.complete c).host = s.host := rfl
@[simp] theorem complete_turns : (s.complete c).turns = s.turns := rfl

end complete

section accept

variable (s : State) (w : Word)

@[simp] theorem accept_cur : (s.accept w).cur = w := rfl
@[simp] theorem accept_busy : (s.accept w).busy = true := rfl
@[simp] theorem accept_tv : (s.accept w).tv = s.tv := rfl
@[simp] theorem accept_ovr : (s.accept w).ovr = false := rfl
@[simp] theorem accept_err : (s.accept w).err = s.err := rfl
@[simp] theorem accept_pixBase : (s.accept w).pixBase = s.pixBase := rfl
@[simp] theorem accept_pixStride : (s.accept w).pixStride = s.pixStride := rfl
@[simp] theorem accept_pixin : (s.accept w).pixin = s.pixin := rfl
@[simp] theorem accept_resY : (s.accept w).resY = s.resY := rfl
@[simp] theorem accept_resCb : (s.accept w).resCb = s.resCb := rfl
@[simp] theorem accept_resCr : (s.accept w).resCr = s.resCr := rfl
@[simp] theorem accept_nPix : (s.accept w).nPix = s.nPix := rfl
@[simp] theorem accept_tables : (s.accept w).tables = s.tables := rfl
@[simp] theorem accept_bufs : (s.accept w).bufs = s.bufs := rfl
@[simp] theorem accept_pixMem : (s.accept w).pixMem = s.pixMem := rfl
@[simp] theorem accept_epoch : (s.accept w).epoch = s.epoch := rfl
@[simp] theorem accept_draws : (s.accept w).draws = s.draws := rfl
@[simp] theorem accept_host : (s.accept w).host = s.host := rfl
@[simp] theorem accept_turns : (s.accept w).turns = s.turns := rfl

end accept

section overrun

variable (s : State)

@[simp] theorem overrun_cur : (s.overrun).cur = s.cur := rfl
@[simp] theorem overrun_busy : (s.overrun).busy = s.busy := rfl
@[simp] theorem overrun_tv : (s.overrun).tv = s.tv := rfl
@[simp] theorem overrun_ovr : (s.overrun).ovr = true := rfl
@[simp] theorem overrun_err : (s.overrun).err = s.err := rfl
@[simp] theorem overrun_pixBase : (s.overrun).pixBase = s.pixBase := rfl
@[simp] theorem overrun_pixStride : (s.overrun).pixStride = s.pixStride := rfl
@[simp] theorem overrun_pixin : (s.overrun).pixin = s.pixin := rfl
@[simp] theorem overrun_resY : (s.overrun).resY = s.resY := rfl
@[simp] theorem overrun_resCb : (s.overrun).resCb = s.resCb := rfl
@[simp] theorem overrun_resCr : (s.overrun).resCr = s.resCr := rfl
@[simp] theorem overrun_nPix : (s.overrun).nPix = s.nPix := rfl
@[simp] theorem overrun_tables : (s.overrun).tables = s.tables := rfl
@[simp] theorem overrun_bufs : (s.overrun).bufs = s.bufs := rfl
@[simp] theorem overrun_pixMem : (s.overrun).pixMem = s.pixMem := rfl
@[simp] theorem overrun_epoch : (s.overrun).epoch = s.epoch := rfl
@[simp] theorem overrun_draws : (s.overrun).draws = s.draws := rfl
@[simp] theorem overrun_host : (s.overrun).host = s.host := rfl
@[simp] theorem overrun_turns : (s.overrun).turns = s.turns := rfl

end overrun

section setTables

variable (s : State) (x : Tables)

@[simp] theorem setTables_cur : (s.setTables x).cur = s.cur := rfl
@[simp] theorem setTables_busy : (s.setTables x).busy = s.busy := rfl
@[simp] theorem setTables_tv : (s.setTables x).tv = true := rfl
@[simp] theorem setTables_ovr : (s.setTables x).ovr = s.ovr := rfl
@[simp] theorem setTables_err : (s.setTables x).err = s.err := rfl
@[simp] theorem setTables_pixBase : (s.setTables x).pixBase = s.pixBase := rfl
@[simp] theorem setTables_pixStride : (s.setTables x).pixStride = s.pixStride := rfl
@[simp] theorem setTables_pixin : (s.setTables x).pixin = s.pixin := rfl
@[simp] theorem setTables_resY : (s.setTables x).resY = s.resY := rfl
@[simp] theorem setTables_resCb : (s.setTables x).resCb = s.resCb := rfl
@[simp] theorem setTables_resCr : (s.setTables x).resCr = s.resCr := rfl
@[simp] theorem setTables_nPix : (s.setTables x).nPix = s.nPix := rfl
@[simp] theorem setTables_tables : (s.setTables x).tables = x := rfl
@[simp] theorem setTables_bufs : (s.setTables x).bufs = s.bufs := rfl
@[simp] theorem setTables_pixMem : (s.setTables x).pixMem = s.pixMem := rfl
@[simp] theorem setTables_epoch : (s.setTables x).epoch = s.epoch := rfl
@[simp] theorem setTables_draws : (s.setTables x).draws = s.draws := rfl
@[simp] theorem setTables_host : (s.setTables x).host = s.host := rfl
@[simp] theorem setTables_turns : (s.setTables x).turns = s.turns := rfl

end setTables

section setBufs

variable (s : State) (b : Buffers)

@[simp] theorem setBufs_cur : (s.setBufs b).cur = s.cur := rfl
@[simp] theorem setBufs_busy : (s.setBufs b).busy = s.busy := rfl
@[simp] theorem setBufs_tv : (s.setBufs b).tv = s.tv := rfl
@[simp] theorem setBufs_ovr : (s.setBufs b).ovr = s.ovr := rfl
@[simp] theorem setBufs_err : (s.setBufs b).err = s.err := rfl
@[simp] theorem setBufs_pixBase : (s.setBufs b).pixBase = s.pixBase := rfl
@[simp] theorem setBufs_pixStride : (s.setBufs b).pixStride = s.pixStride := rfl
@[simp] theorem setBufs_pixin : (s.setBufs b).pixin = s.pixin := rfl
@[simp] theorem setBufs_resY : (s.setBufs b).resY = s.resY := rfl
@[simp] theorem setBufs_resCb : (s.setBufs b).resCb = s.resCb := rfl
@[simp] theorem setBufs_resCr : (s.setBufs b).resCr = s.resCr := rfl
@[simp] theorem setBufs_nPix : (s.setBufs b).nPix = s.nPix := rfl
@[simp] theorem setBufs_tables : (s.setBufs b).tables = s.tables := rfl
@[simp] theorem setBufs_bufs : (s.setBufs b).bufs = b := rfl
@[simp] theorem setBufs_pixMem : (s.setBufs b).pixMem = s.pixMem := rfl
@[simp] theorem setBufs_epoch : (s.setBufs b).epoch = s.epoch := rfl
@[simp] theorem setBufs_draws : (s.setBufs b).draws = s.draws + 1 := rfl
@[simp] theorem setBufs_host : (s.setBufs b).host = s.host := rfl
@[simp] theorem setBufs_turns : (s.setBufs b).turns = s.turns := rfl

end setBufs

section setResY

variable (s : State) (y : Word)

@[simp] theorem setResY_cur : (s.setResY y).cur = s.cur := rfl
@[simp] theorem setResY_busy : (s.setResY y).busy = s.busy := rfl
@[simp] theorem setResY_tv : (s.setResY y).tv = s.tv := rfl
@[simp] theorem setResY_ovr : (s.setResY y).ovr = s.ovr := rfl
@[simp] theorem setResY_err : (s.setResY y).err = s.err := rfl
@[simp] theorem setResY_pixBase : (s.setResY y).pixBase = s.pixBase := rfl
@[simp] theorem setResY_pixStride : (s.setResY y).pixStride = s.pixStride := rfl
@[simp] theorem setResY_pixin : (s.setResY y).pixin = s.pixin := rfl
@[simp] theorem setResY_resY : (s.setResY y).resY = y := rfl
@[simp] theorem setResY_resCb : (s.setResY y).resCb = s.resCb := rfl
@[simp] theorem setResY_resCr : (s.setResY y).resCr = s.resCr := rfl
@[simp] theorem setResY_nPix : (s.setResY y).nPix = s.nPix := rfl
@[simp] theorem setResY_tables : (s.setResY y).tables = s.tables := rfl
@[simp] theorem setResY_bufs : (s.setResY y).bufs = s.bufs := rfl
@[simp] theorem setResY_pixMem : (s.setResY y).pixMem = s.pixMem := rfl
@[simp] theorem setResY_epoch : (s.setResY y).epoch = s.epoch := rfl
@[simp] theorem setResY_draws : (s.setResY y).draws = s.draws := rfl
@[simp] theorem setResY_host : (s.setResY y).host = s.host := rfl
@[simp] theorem setResY_turns : (s.setResY y).turns = s.turns := rfl

end setResY

section setResC

variable (s : State) (x y : Word)

@[simp] theorem setResC_cur : (s.setResC x y).cur = s.cur := rfl
@[simp] theorem setResC_busy : (s.setResC x y).busy = s.busy := rfl
@[simp] theorem setResC_tv : (s.setResC x y).tv = s.tv := rfl
@[simp] theorem setResC_ovr : (s.setResC x y).ovr = s.ovr := rfl
@[simp] theorem setResC_err : (s.setResC x y).err = s.err := rfl
@[simp] theorem setResC_pixBase : (s.setResC x y).pixBase = s.pixBase := rfl
@[simp] theorem setResC_pixStride : (s.setResC x y).pixStride = s.pixStride := rfl
@[simp] theorem setResC_pixin : (s.setResC x y).pixin = s.pixin := rfl
@[simp] theorem setResC_resY : (s.setResC x y).resY = s.resY := rfl
@[simp] theorem setResC_resCb : (s.setResC x y).resCb = x := rfl
@[simp] theorem setResC_resCr : (s.setResC x y).resCr = y := rfl
@[simp] theorem setResC_nPix : (s.setResC x y).nPix = s.nPix := rfl
@[simp] theorem setResC_tables : (s.setResC x y).tables = s.tables := rfl
@[simp] theorem setResC_bufs : (s.setResC x y).bufs = s.bufs := rfl
@[simp] theorem setResC_pixMem : (s.setResC x y).pixMem = s.pixMem := rfl
@[simp] theorem setResC_epoch : (s.setResC x y).epoch = s.epoch := rfl
@[simp] theorem setResC_draws : (s.setResC x y).draws = s.draws := rfl
@[simp] theorem setResC_host : (s.setResC x y).host = s.host := rfl
@[simp] theorem setResC_turns : (s.setResC x y).turns = s.turns := rfl

end setResC

section setPixBase

variable (s : State) (v : Word)

@[simp] theorem setPixBase_cur : (s.setPixBase v).cur = s.cur := rfl
@[simp] theorem setPixBase_busy : (s.setPixBase v).busy = s.busy := rfl
@[simp] theorem setPixBase_tv : (s.setPixBase v).tv = s.tv := rfl
@[simp] theorem setPixBase_ovr : (s.setPixBase v).ovr = s.ovr := rfl
@[simp] theorem setPixBase_err : (s.setPixBase v).err = s.err := rfl
@[simp] theorem setPixBase_pixBase : (s.setPixBase v).pixBase = v.extractLsb' 0 16 := rfl
@[simp] theorem setPixBase_pixStride : (s.setPixBase v).pixStride = s.pixStride := rfl
@[simp] theorem setPixBase_pixin : (s.setPixBase v).pixin = s.pixin := rfl
@[simp] theorem setPixBase_resY : (s.setPixBase v).resY = s.resY := rfl
@[simp] theorem setPixBase_resCb : (s.setPixBase v).resCb = s.resCb := rfl
@[simp] theorem setPixBase_resCr : (s.setPixBase v).resCr = s.resCr := rfl
@[simp] theorem setPixBase_nPix : (s.setPixBase v).nPix = s.nPix := rfl
@[simp] theorem setPixBase_tables : (s.setPixBase v).tables = s.tables := rfl
@[simp] theorem setPixBase_bufs : (s.setPixBase v).bufs = s.bufs := rfl
@[simp] theorem setPixBase_pixMem : (s.setPixBase v).pixMem = s.pixMem := rfl
@[simp] theorem setPixBase_epoch : (s.setPixBase v).epoch = s.epoch := rfl
@[simp] theorem setPixBase_draws : (s.setPixBase v).draws = s.draws := rfl
@[simp] theorem setPixBase_host : (s.setPixBase v).host = s.host := rfl
@[simp] theorem setPixBase_turns : (s.setPixBase v).turns = s.turns := rfl

end setPixBase

section setPixStride

variable (s : State) (v : Word)

@[simp] theorem setPixStride_cur : (s.setPixStride v).cur = s.cur := rfl
@[simp] theorem setPixStride_busy : (s.setPixStride v).busy = s.busy := rfl
@[simp] theorem setPixStride_tv : (s.setPixStride v).tv = s.tv := rfl
@[simp] theorem setPixStride_ovr : (s.setPixStride v).ovr = s.ovr := rfl
@[simp] theorem setPixStride_err : (s.setPixStride v).err = s.err := rfl
@[simp] theorem setPixStride_pixBase : (s.setPixStride v).pixBase = s.pixBase := rfl
@[simp] theorem setPixStride_pixStride : (s.setPixStride v).pixStride = v.extractLsb' 0 16 := rfl
@[simp] theorem setPixStride_pixin : (s.setPixStride v).pixin = s.pixin := rfl
@[simp] theorem setPixStride_resY : (s.setPixStride v).resY = s.resY := rfl
@[simp] theorem setPixStride_resCb : (s.setPixStride v).resCb = s.resCb := rfl
@[simp] theorem setPixStride_resCr : (s.setPixStride v).resCr = s.resCr := rfl
@[simp] theorem setPixStride_nPix : (s.setPixStride v).nPix = s.nPix := rfl
@[simp] theorem setPixStride_tables : (s.setPixStride v).tables = s.tables := rfl
@[simp] theorem setPixStride_bufs : (s.setPixStride v).bufs = s.bufs := rfl
@[simp] theorem setPixStride_pixMem : (s.setPixStride v).pixMem = s.pixMem := rfl
@[simp] theorem setPixStride_epoch : (s.setPixStride v).epoch = s.epoch := rfl
@[simp] theorem setPixStride_draws : (s.setPixStride v).draws = s.draws := rfl
@[simp] theorem setPixStride_host : (s.setPixStride v).host = s.host := rfl
@[simp] theorem setPixStride_turns : (s.setPixStride v).turns = s.turns := rfl

end setPixStride

section setPixin

variable (s : State) (v : Word)

@[simp] theorem setPixin_cur : (s.setPixin v).cur = s.cur := rfl
@[simp] theorem setPixin_busy : (s.setPixin v).busy = s.busy := rfl
@[simp] theorem setPixin_tv : (s.setPixin v).tv = s.tv := rfl
@[simp] theorem setPixin_ovr : (s.setPixin v).ovr = s.ovr := rfl
@[simp] theorem setPixin_err : (s.setPixin v).err = s.err := rfl
@[simp] theorem setPixin_pixBase : (s.setPixin v).pixBase = s.pixBase := rfl
@[simp] theorem setPixin_pixStride : (s.setPixin v).pixStride = s.pixStride := rfl
@[simp] theorem setPixin_pixin : (s.setPixin v).pixin = ⟨v.extractLsb' 0 8, v.extractLsb' 8 8, v.extractLsb' 16 8⟩ := rfl
@[simp] theorem setPixin_resY : (s.setPixin v).resY = s.resY := rfl
@[simp] theorem setPixin_resCb : (s.setPixin v).resCb = s.resCb := rfl
@[simp] theorem setPixin_resCr : (s.setPixin v).resCr = s.resCr := rfl
@[simp] theorem setPixin_nPix : (s.setPixin v).nPix = s.nPix := rfl
@[simp] theorem setPixin_tables : (s.setPixin v).tables = s.tables := rfl
@[simp] theorem setPixin_bufs : (s.setPixin v).bufs = s.bufs := rfl
@[simp] theorem setPixin_pixMem : (s.setPixin v).pixMem = s.pixMem := rfl
@[simp] theorem setPixin_epoch : (s.setPixin v).epoch = s.epoch := rfl
@[simp] theorem setPixin_draws : (s.setPixin v).draws = s.draws := rfl
@[simp] theorem setPixin_host : (s.setPixin v).host = s.host := rfl
@[simp] theorem setPixin_turns : (s.setPixin v).turns = s.turns := rfl

end setPixin

section setPixMem

variable (s : State) (m : Memory)

@[simp] theorem setPixMem_cur : (s.setPixMem m).cur = s.cur := rfl
@[simp] theorem setPixMem_busy : (s.setPixMem m).busy = s.busy := rfl
@[simp] theorem setPixMem_tv : (s.setPixMem m).tv = s.tv := rfl
@[simp] theorem setPixMem_ovr : (s.setPixMem m).ovr = s.ovr := rfl
@[simp] theorem setPixMem_err : (s.setPixMem m).err = s.err := rfl
@[simp] theorem setPixMem_pixBase : (s.setPixMem m).pixBase = s.pixBase := rfl
@[simp] theorem setPixMem_pixStride : (s.setPixMem m).pixStride = s.pixStride := rfl
@[simp] theorem setPixMem_pixin : (s.setPixMem m).pixin = s.pixin := rfl
@[simp] theorem setPixMem_resY : (s.setPixMem m).resY = s.resY := rfl
@[simp] theorem setPixMem_resCb : (s.setPixMem m).resCb = s.resCb := rfl
@[simp] theorem setPixMem_resCr : (s.setPixMem m).resCr = s.resCr := rfl
@[simp] theorem setPixMem_nPix : (s.setPixMem m).nPix = s.nPix := rfl
@[simp] theorem setPixMem_tables : (s.setPixMem m).tables = s.tables := rfl
@[simp] theorem setPixMem_bufs : (s.setPixMem m).bufs = s.bufs := rfl
@[simp] theorem setPixMem_pixMem : (s.setPixMem m).pixMem = m := rfl
@[simp] theorem setPixMem_epoch : (s.setPixMem m).epoch = s.epoch := rfl
@[simp] theorem setPixMem_draws : (s.setPixMem m).draws = s.draws := rfl
@[simp] theorem setPixMem_host : (s.setPixMem m).host = s.host := rfl
@[simp] theorem setPixMem_turns : (s.setPixMem m).turns = s.turns := rfl

end setPixMem

section setHost

variable (s : State) (h : HostAgent)

@[simp] theorem setHost_cur : (s.setHost h).cur = s.cur := rfl
@[simp] theorem setHost_busy : (s.setHost h).busy = s.busy := rfl
@[simp] theorem setHost_tv : (s.setHost h).tv = s.tv := rfl
@[simp] theorem setHost_ovr : (s.setHost h).ovr = s.ovr := rfl
@[simp] theorem setHost_err : (s.setHost h).err = s.err := rfl
@[simp] theorem setHost_pixBase : (s.setHost h).pixBase = s.pixBase := rfl
@[simp] theorem setHost_pixStride : (s.setHost h).pixStride = s.pixStride := rfl
@[simp] theorem setHost_pixin : (s.setHost h).pixin = s.pixin := rfl
@[simp] theorem setHost_resY : (s.setHost h).resY = s.resY := rfl
@[simp] theorem setHost_resCb : (s.setHost h).resCb = s.resCb := rfl
@[simp] theorem setHost_resCr : (s.setHost h).resCr = s.resCr := rfl
@[simp] theorem setHost_nPix : (s.setHost h).nPix = s.nPix := rfl
@[simp] theorem setHost_tables : (s.setHost h).tables = s.tables := rfl
@[simp] theorem setHost_bufs : (s.setHost h).bufs = s.bufs := rfl
@[simp] theorem setHost_pixMem : (s.setHost h).pixMem = s.pixMem := rfl
@[simp] theorem setHost_epoch : (s.setHost h).epoch = s.epoch := rfl
@[simp] theorem setHost_draws : (s.setHost h).draws = s.draws := rfl
@[simp] theorem setHost_host : (s.setHost h).host = h := rfl
@[simp] theorem setHost_turns : (s.setHost h).turns = s.turns := rfl

end setHost

section setTurns

variable (s : State) (ts : List Turn)

@[simp] theorem setTurns_cur : (s.setTurns ts).cur = s.cur := rfl
@[simp] theorem setTurns_busy : (s.setTurns ts).busy = s.busy := rfl
@[simp] theorem setTurns_tv : (s.setTurns ts).tv = s.tv := rfl
@[simp] theorem setTurns_ovr : (s.setTurns ts).ovr = s.ovr := rfl
@[simp] theorem setTurns_err : (s.setTurns ts).err = s.err := rfl
@[simp] theorem setTurns_pixBase : (s.setTurns ts).pixBase = s.pixBase := rfl
@[simp] theorem setTurns_pixStride : (s.setTurns ts).pixStride = s.pixStride := rfl
@[simp] theorem setTurns_pixin : (s.setTurns ts).pixin = s.pixin := rfl
@[simp] theorem setTurns_resY : (s.setTurns ts).resY = s.resY := rfl
@[simp] theorem setTurns_resCb : (s.setTurns ts).resCb = s.resCb := rfl
@[simp] theorem setTurns_resCr : (s.setTurns ts).resCr = s.resCr := rfl
@[simp] theorem setTurns_nPix : (s.setTurns ts).nPix = s.nPix := rfl
@[simp] theorem setTurns_tables : (s.setTurns ts).tables = s.tables := rfl
@[simp] theorem setTurns_bufs : (s.setTurns ts).bufs = s.bufs := rfl
@[simp] theorem setTurns_pixMem : (s.setTurns ts).pixMem = s.pixMem := rfl
@[simp] theorem setTurns_epoch : (s.setTurns ts).epoch = s.epoch := rfl
@[simp] theorem setTurns_draws : (s.setTurns ts).draws = s.draws := rfl
@[simp] theorem setTurns_host : (s.setTurns ts).host = s.host := rfl
@[simp] theorem setTurns_turns : (s.setTurns ts).turns = ts := rfl

end setTurns

section reads

/-! The reads that an update of another field leaves alone. -/

variable (s : State)

@[simp] theorem complete_byteAt (c : ErrCode) (k : Nat) : (s.complete c).byteAt k = s.byteAt k := rfl
@[simp] theorem complete_pixel? (c : ErrCode) (p : Nat) : (s.complete c).pixel? p = s.pixel? p := rfl
@[simp] theorem complete_pixelIndex (c : ErrCode) (i j : Nat) : (s.complete c).pixelIndex i j = s.pixelIndex i j := rfl
@[simp] theorem accept_byteAt (w : Word) (k : Nat) : (s.accept w).byteAt k = s.byteAt k := rfl
@[simp] theorem accept_pixel? (w : Word) (p : Nat) : (s.accept w).pixel? p = s.pixel? p := rfl
@[simp] theorem accept_pixelIndex (w : Word) (i j : Nat) : (s.accept w).pixelIndex i j = s.pixelIndex i j := rfl
@[simp] theorem overrun_byteAt (k : Nat) : (s.overrun).byteAt k = s.byteAt k := rfl
@[simp] theorem overrun_pixel? (p : Nat) : (s.overrun).pixel? p = s.pixel? p := rfl
@[simp] theorem overrun_pixelIndex (i j : Nat) : (s.overrun).pixelIndex i j = s.pixelIndex i j := rfl
@[simp] theorem setTables_byteAt (x : Tables) (k : Nat) : (s.setTables x).byteAt k = s.byteAt k := rfl
@[simp] theorem setTables_pixel? (x : Tables) (p : Nat) : (s.setTables x).pixel? p = s.pixel? p := rfl
@[simp] theorem setTables_pixelIndex (x : Tables) (i j : Nat) : (s.setTables x).pixelIndex i j = s.pixelIndex i j := rfl
@[simp] theorem setBufs_byteAt (b : Buffers) (k : Nat) : (s.setBufs b).byteAt k = s.byteAt k := rfl
@[simp] theorem setBufs_pixel? (b : Buffers) (p : Nat) : (s.setBufs b).pixel? p = s.pixel? p := rfl
@[simp] theorem setBufs_pixelIndex (b : Buffers) (i j : Nat) : (s.setBufs b).pixelIndex i j = s.pixelIndex i j := rfl
@[simp] theorem setResY_byteAt (y : Word) (k : Nat) : (s.setResY y).byteAt k = s.byteAt k := rfl
@[simp] theorem setResY_pixel? (y : Word) (p : Nat) : (s.setResY y).pixel? p = s.pixel? p := rfl
@[simp] theorem setResY_pixelIndex (y : Word) (i j : Nat) : (s.setResY y).pixelIndex i j = s.pixelIndex i j := rfl
@[simp] theorem setResC_byteAt (x y : Word) (k : Nat) : (s.setResC x y).byteAt k = s.byteAt k := rfl
@[simp] theorem setResC_pixel? (x y : Word) (p : Nat) : (s.setResC x y).pixel? p = s.pixel? p := rfl
@[simp] theorem setResC_pixelIndex (x y : Word) (i j : Nat) : (s.setResC x y).pixelIndex i j = s.pixelIndex i j := rfl
@[simp] theorem setPixBase_byteAt (v : Word) (k : Nat) : (s.setPixBase v).byteAt k = s.byteAt k := rfl
@[simp] theorem setPixBase_pixel? (v : Word) (p : Nat) : (s.setPixBase v).pixel? p = s.pixel? p := rfl
@[simp] theorem setPixStride_byteAt (v : Word) (k : Nat) : (s.setPixStride v).byteAt k = s.byteAt k := rfl
@[simp] theorem setPixStride_pixel? (v : Word) (p : Nat) : (s.setPixStride v).pixel? p = s.pixel? p := rfl
@[simp] theorem setPixin_byteAt (v : Word) (k : Nat) : (s.setPixin v).byteAt k = s.byteAt k := rfl
@[simp] theorem setPixin_pixel? (v : Word) (p : Nat) : (s.setPixin v).pixel? p = s.pixel? p := rfl
@[simp] theorem setPixin_pixelIndex (v : Word) (i j : Nat) : (s.setPixin v).pixelIndex i j = s.pixelIndex i j := rfl
@[simp] theorem setPixMem_pixelIndex (m : Memory) (i j : Nat) : (s.setPixMem m).pixelIndex i j = s.pixelIndex i j := rfl
@[simp] theorem setHost_byteAt (h : HostAgent) (k : Nat) : (s.setHost h).byteAt k = s.byteAt k := rfl
@[simp] theorem setHost_pixel? (h : HostAgent) (p : Nat) : (s.setHost h).pixel? p = s.pixel? p := rfl
@[simp] theorem setHost_pixelIndex (h : HostAgent) (i j : Nat) : (s.setHost h).pixelIndex i j = s.pixelIndex i j := rfl
@[simp] theorem setTurns_byteAt (ts : List Turn) (k : Nat) : (s.setTurns ts).byteAt k = s.byteAt k := rfl
@[simp] theorem setTurns_pixel? (ts : List Turn) (p : Nat) : (s.setTurns ts).pixel? p = s.pixel? p := rfl
@[simp] theorem setTurns_pixelIndex (ts : List Turn) (i j : Nat) : (s.setTurns ts).pixelIndex i j = s.pixelIndex i j := rfl

end reads

section resetWith

variable (n e : Nat) (h : HostAgent) (ts : List Turn)

@[simp] theorem resetWith_cur : (resetWith n e h ts).cur = 0 := rfl
@[simp] theorem resetWith_busy : (resetWith n e h ts).busy = false := rfl
@[simp] theorem resetWith_tv : (resetWith n e h ts).tv = false := rfl
@[simp] theorem resetWith_ovr : (resetWith n e h ts).ovr = false := rfl
@[simp] theorem resetWith_err : (resetWith n e h ts).err = .ok := rfl
@[simp] theorem resetWith_pixBase : (resetWith n e h ts).pixBase = 0 := rfl
@[simp] theorem resetWith_pixStride : (resetWith n e h ts).pixStride = 0 := rfl
@[simp] theorem resetWith_pixin : (resetWith n e h ts).pixin = ⟨0, 0, 0⟩ := rfl
@[simp] theorem resetWith_resY : (resetWith n e h ts).resY = 0 := rfl
@[simp] theorem resetWith_resCb : (resetWith n e h ts).resCb = 0 := rfl
@[simp] theorem resetWith_resCr : (resetWith n e h ts).resCr = 0 := rfl
@[simp] theorem resetWith_nPix : (resetWith n e h ts).nPix = n := rfl
@[simp] theorem resetWith_tables : (resetWith n e h ts).tables = freeTables e := rfl
@[simp] theorem resetWith_bufs : (resetWith n e h ts).bufs = freeBuffers e := rfl
@[simp] theorem resetWith_pixMem : (resetWith n e h ts).pixMem = [] := rfl
@[simp] theorem resetWith_epoch : (resetWith n e h ts).epoch = e := rfl
@[simp] theorem resetWith_draws : (resetWith n e h ts).draws = 0 := rfl
@[simp] theorem resetWith_host : (resetWith n e h ts).host = h := rfl
@[simp] theorem resetWith_turns : (resetWith n e h ts).turns = ts := rfl

end resetWith

end Sys2Proof.Machine.State
end

