-- ==== Sys2Proof/Laws/Bus.lean ====
section
/-!
SUPPORT. The laws of the bus slave port: when an access is accepted, what an offset names, and what
an access can do to the core.
-/

namespace Sys2Proof.Machine

/-- An access is accepted exactly when none of the six causes of a BUSERR holds. -/
theorem busCause_eq_none_iff (s : State) (x : Access) :
    s.busCause x = none ↔
      x.aligned = true ∧ s.mapped x = true ∧
      ((s.placeAt x).wordOnly = true → x.width = 4) ∧
      (x.isWrite = true → (s.placeAt x).readOnly = false) ∧
      (x.isWrite = false → (s.placeAt x).isTable = true → s.tv = true) ∧
      (s.busy = true → (s.placeAt x).acceptedWhileBusy x.isWrite = true) := by
  unfold State.busCause
  cases x.aligned <;> cases s.mapped x <;> cases (s.placeAt x).wordOnly <;>
    cases x.isWrite <;> cases (s.placeAt x).readOnly <;> cases (s.placeAt x).isTable <;>
    cases s.tv <;> cases s.busy <;> cases hp : (s.placeAt x).acceptedWhileBusy _ <;>
    by_cases hw : x.width = 4 <;> simp_all

theorem respond_of_refused {s : State} {x : Access} {c : BusCause} (h : s.busCause x = some c) :
    s.respond x = .buserr := by simp [State.respond, h]

theorem afterAccess_of_refused {s : State} {x : Access} {c : BusCause}
    (h : s.busCause x = some c) : s.afterAccess x = s := by simp [State.afterAccess, h]

theorem respond_read {s : State} {a : Offset} {w : Nat} (h : s.busCause (.read a w) = none) :
    s.respond (.read a w) = .data (s.readPlace w (s.placeAt (.read a w))) := by
  simp [State.respond, h]

theorem respond_write {s : State} {a : Offset} {w : Nat} {v : Word}
    (h : s.busCause (.write a w v) = none) : s.respond (.write a w v) = .ok := by
  simp [State.respond, h]

theorem afterAccess_write {s : State} {a : Offset} {w : Nat} {v : Word}
    (h : s.busCause (.write a w v) = none) :
    s.afterAccess (.write a w v) = s.writePlace w v (s.placeAt (.write a w v)) := by
  simp [State.afterAccess, h]

/-- A read changes nothing. -/
@[simp] theorem afterAccess_read (s : State) (a : Offset) (w : Nat) :
    s.afterAccess (.read a w) = s := by
  unfold State.afterAccess
  cases s.busCause (.read a w) <;> rfl

/-- A response is BUSERR exactly when a cause holds. -/
theorem respond_eq_buserr_iff (s : State) (x : Access) :
    s.respond x = .buserr ↔ ¬ s.busCause x = none := by
  unfold State.respond
  cases s.busCause x with
  | some c => simp
  | none => cases x <;> simp

/-! ## What an offset names -/

section places

variable {n a : Nat}

theorem placeOf_reg (h : a < 0x0024) : placeOf n a = .reg (regOfWord (a / 4)) := by
  simp [placeOf, h]

theorem placeOf_buffer (h : 0x0400 ≤ a) (h' : a < 0x0A00) :
    placeOf n a = .buffer (bufOfNumber ((a - 0x0400) / 0x100))
      ⟨a % 0x100 / 4, Nat.div_lt_of_lt_mul (Nat.mod_lt a (by decide))⟩ := by
  simp [placeOf, h', show ¬ a < 0x0024 by omega, show ¬ a < 0x0400 by omega]

theorem placeOf_table (h : 0x2000 ≤ a) (h' : a < 0x4000) :
    placeOf n a = .table (tableOfNumber ((a - 0x2000) / 0x400))
      ⟨a % 0x400 / 4, Nat.div_lt_of_lt_mul (Nat.mod_lt a (by decide))⟩ := by
  simp [placeOf, h', show ¬ a < 0x0024 by omega, show ¬ a < 0x0400 by omega,
    show ¬ a < 0x0A00 by omega, show ¬ a < 0x2000 by omega]

theorem placeOf_pixels (h : 0x4000 ≤ a) (h' : a < 0x4000 + 3 * n) :
    placeOf n a = .pixels (a - 0x4000) := by
  simp [placeOf, h', show ¬ a < 0x0024 by omega, show ¬ a < 0x0400 by omega,
    show ¬ a < 0x0A00 by omega, show ¬ a < 0x2000 by omega, show ¬ a < 0x4000 by omega]

theorem placeOf_reserved (h : (0x0024 ≤ a ∧ a < 0x0400) ∨ (0x0A00 ≤ a ∧ a < 0x2000) ∨
    0x4000 + 3 * n ≤ a) : placeOf n a = .reserved := by
  unfold placeOf
  repeat' split
  all_goals first
    | rfl
    | omega

/-- The place of CMD is offset 0 to 3. -/
theorem lt_of_placeOf_cmd (h : placeOf n a = .reg .cmd) : a < 4 := by
  have ha : a < 0x0024 := by
    by_contra hn
    unfold placeOf at h
    repeat (split at h; · first | omega | cases h)
    cases h
  rw [placeOf_reg ha] at h
  by_contra hn
  obtain ⟨k, hk⟩ : ∃ k, a / 4 = k + 1 := ⟨a / 4 - 1, by omega⟩
  rw [hk] at h
  have hk8 : k < 8 := by omega
  interval_cases k <;> cases h

end places

/-- The aligned width-4 access of CMD is at offset 0. -/
theorem eq_cmd_write {s : State} {o : Offset} {w : Nat} {v : Word}
    (hc : s.busCause (.write o w v) = none) (hp : s.placeAt (.write o w v) = .reg .cmd) :
    Access.write o w v = .write 0x0000 4 v := by
  obtain ⟨ha, -, hw, -⟩ := (busCause_eq_none_iff _ _).mp hc
  have hw4 : w = 4 := hw (by rw [hp]; rfl)
  subst hw4
  have hlt := lt_of_placeOf_cmd hp
  simp only [Access.aligned, Access.width, Access.offset, Bool.and_eq_true, beq_iff_eq] at ha hlt
  have ho : o = 0 := BitVec.eq_of_toNat_eq (by simp; omega)
  rw [ho]

theorem placeAt_cmd_write (s : State) (v : Word) :
    s.placeAt (.write 0x0000 4 v) = .reg .cmd := by
  simp [State.placeAt, Access.offset, placeOf, regOfWord]

/-- A width-4 write of CMD is accepted by the bus in every state. -/
theorem busCause_cmd_write (s : State) (v : Word) : s.busCause (.write 0x0000 4 v) = none := by
  rw [busCause_eq_none_iff, State.mapped, placeAt_cmd_write]
  exact ⟨rfl, rfl, fun _ => rfl, fun _ => rfl, nofun, fun _ => rfl⟩

/-- A width-4 write of CMD accepts the word, or is discarded. -/
theorem afterAccess_cmd_write (s : State) (v : Word) :
    s.afterAccess (.write 0x0000 4 v) = s.writeCmd v := by
  rw [afterAccess_write (busCause_cmd_write s v), placeAt_cmd_write]; rfl

/-- A read of STATUS is accepted in every state and returns STATUS (spec/10_state.md R25). -/
theorem respond_status (s : State) : s.respond (.read 0x0004 4) = .data s.statusWord := by
  have h : s.busCause (.read 0x0004 4) = none := by
    rw [busCause_eq_none_iff]
    exact ⟨rfl, rfl, fun _ => rfl, nofun, nofun, fun _ => rfl⟩
  exact respond_read h

/-- An accepted word write of a control register (spec/10_state.md R23). -/
theorem afterAccess_reg_write {s : State} {o : Offset} (v : Word) (hb : s.busy = false)
    (ho : o.toNat < 0x0024) (ha : o.toNat % 4 = 0)
    (hr : Place.readOnly (.reg (regOfWord (o.toNat / 4))) = false) :
    s.afterAccess (.write o 4 v) = s.writePlace 4 v (.reg (regOfWord (o.toNat / 4))) := by
  have hp : s.placeAt (.write o 4 v) = .reg (regOfWord (o.toNat / 4)) := placeOf_reg ho
  rw [afterAccess_write, hp]
  rw [busCause_eq_none_iff, State.mapped, hp]
  exact ⟨by simp [Access.aligned, Access.width, Access.offset, ha], rfl, fun _ => rfl, fun _ => hr,
    nofun, fun h => by rw [hb] at h; cases h⟩

/-- A word read of a control register while BUSY = 0 (spec/10_state.md R23). -/
theorem respond_reg_read {s : State} {o : Offset} (hb : s.busy = false) (ho : o.toNat < 0x0024)
    (ha : o.toNat % 4 = 0) :
    s.respond (.read o 4) = .data (s.readReg (regOfWord (o.toNat / 4))) := by
  have hp : s.placeAt (.read o 4) = .reg (regOfWord (o.toNat / 4)) := placeOf_reg ho
  rw [respond_read, hp]
  · rfl
  rw [busCause_eq_none_iff, State.mapped, hp]
  exact ⟨by simp [Access.aligned, Access.width, Access.offset, ha], rfl, fun _ => rfl, nofun, nofun,
    fun h => by rw [hb] at h; cases h⟩

/-- An aligned access that starts inside the pixel memory names that byte and is accepted while
BUSY = 0 (spec/20_memory.md R64, R66). -/
theorem pixels_accepted {s : State} {x : Access} {p : Nat} (hb : s.busy = false)
    (hn : Config.LegalNPix s.nPix) (hw : x.width = 1 ∨ x.width = 2 ∨ x.width = 4)
    (ha : p % x.width = 0) (hp : p < 3 * s.nPix) (ho : x.offset.toNat = 0x4000 + p) :
    s.placeAt x = .pixels p ∧ s.busCause x = none := by
  have hx : s.placeAt x = .pixels p := by
    rw [State.placeAt, placeOf_pixels (by omega) (by omega), ho]
    exact congrArg Place.pixels (Nat.add_sub_cancel_left ..)
  refine ⟨hx, ?_⟩
  obtain ⟨hn4, -, -⟩ := hn
  rw [busCause_eq_none_iff, State.mapped, hx]
  refine ⟨?_, ?_, nofun, fun _ => rfl, nofun, fun h => by rw [hb] at h; cases h⟩
  · simp only [Access.aligned, ho]
    rcases hw with h | h | h <;> rw [h] at ha <;> simp [h] <;> omega
  · simp only [decide_eq_true_eq]
    rcases hw with h | h | h <;> rw [h] at ha ⊢ <;> omega

/-! ## The turns to come do not touch the bus -/

@[simp] theorem memRead_setTurns (s : State) (ts : List Turn) (a n : Nat) :
    (s.setTurns ts).memRead a n = s.memRead a n := by
  induction n generalizing a with
  | zero => rfl
  | succ n ih => rw [State.memRead_succ, State.memRead_succ, ih]; rfl

@[simp] theorem readPlace_setTurns (s : State) (ts : List Turn) (w : Nat) (p : Place) :
    (s.setTurns ts).readPlace w p = s.readPlace w p := by
  cases p with
  | pixels a =>
    show BitVec.ofNat 32 _ = BitVec.ofNat 32 _
    rw [memRead_setTurns]
  | reg r => cases r <;> rfl
  | buffer k n => rfl
  | table t i => rfl
  | reserved => rfl

/-- An access gets the same response whatever turns come after it. -/
@[simp] theorem respond_setTurns (s : State) (ts : List Turn) (x : Access) :
    (s.setTurns ts).respond x = s.respond x := by
  have hc : (s.setTurns ts).busCause x = s.busCause x := rfl
  unfold State.respond
  rw [hc]
  cases s.busCause x with
  | some c => rfl
  | none =>
    cases x with
    | read a w => exact congrArg Response.data (readPlace_setTurns ..)
    | write a w v => rfl

/-! ## What an access can do -/

/-- What an access can do to the core: nothing, an accepted or discarded CMD write, a register
write, or a pixel-memory write inside the memory; all but the discarded CMD write need BUSY = 0. -/
theorem afterAccess_cases (s : State) (x : Access) :
    s.afterAccess x = s ∨
    (∃ v, x = .write 0x0000 4 v ∧ s.busy = true ∧ s.afterAccess x = s.overrun) ∨
    (∃ v, x = .write 0x0000 4 v ∧ s.busy = false ∧ s.afterAccess x = s.accept v) ∨
    (∃ v, s.busy = false ∧ s.afterAccess x = s.setPixBase v) ∨
    (∃ v, s.busy = false ∧ s.afterAccess x = s.setPixStride v) ∨
    (∃ v, s.busy = false ∧ s.afterAccess x = s.setPixin v) ∨
    (∃ a w v, s.busy = false ∧ a + w ≤ 3 * s.nPix ∧ s.afterAccess x = s.memWrite a w v) := by
  cases hc : s.busCause x with
  | some c => exact .inl (afterAccess_of_refused hc)
  | none =>
    cases x with
    | read a w => exact .inl (by simp)
    | write a w v =>
      obtain ⟨-, hm, -, -, -, hbusy⟩ := (busCause_eq_none_iff _ _).mp hc
      have idle : (s.placeAt (.write a w v)).acceptedWhileBusy true = false → s.busy = false := by
        intro h
        cases hb : s.busy with
        | false => rfl
        | true => exact absurd (hbusy hb) (by simp [Access.isWrite, h])
      have hcmd := eq_cmd_write hc
      rw [afterAccess_write hc]
      unfold State.mapped at hm
      generalize s.placeAt (.write a w v) = p at hm idle hcmd
      cases p with
      | reg r =>
        cases r with
        | cmd =>
          cases hb : s.busy with
          | true =>
            exact .inr (.inl ⟨v, hcmd rfl, rfl, by simp [State.writePlace, State.writeCmd, hb]⟩)
          | false =>
            exact .inr (.inr (.inl ⟨v, hcmd rfl, rfl, by
              simp [State.writePlace, State.writeCmd, hb]⟩))
        | pixBase => exact .inr (.inr (.inr (.inl ⟨v, idle rfl, rfl⟩)))
        | pixStride => exact .inr (.inr (.inr (.inr (.inl ⟨v, idle rfl, rfl⟩))))
        | pixin => exact .inr (.inr (.inr (.inr (.inr (.inl ⟨v, idle rfl, rfl⟩)))))
        | status => exact .inl rfl
        | resY => exact .inl rfl
        | resCb => exact .inl rfl
        | resCr => exact .inl rfl
        | cfg => exact .inl rfl
      | buffer k n => exact .inl rfl
      | table t i => exact .inl rfl
      | pixels b =>
        exact .inr (.inr (.inr (.inr (.inr (.inr
          ⟨b, w, v.toNat, idle rfl, of_decide_eq_true hm, rfl⟩)))))
      | reserved => exact .inl rfl

end Sys2Proof.Machine
end

