-- ==== Sys2Proof/Laws/Decode.lean ====
section
/-!
SUPPORT. The laws of the decoder and the encoder.
-/

namespace Sys2Proof

@[simp] theorem opField_encode (i : Instr) : opField (encode i) = opOf i := by
  cases i with
  | cvt420 h => cases h <;> rfl
  | _ => rfl

@[simp] theorem hField_encode (i : Instr) : hField (encode i) = hOf i := by
  cases i with
  | cvt420 h => cases h <;> rfl
  | _ => rfl

@[simp] theorem rsvField_encode (i : Instr) : rsvField (encode i) = 0#27 := by
  cases i with
  | cvt420 h => cases h <;> rfl
  | _ => rfl

/-- A word is its three fields, put together. -/
theorem fields_append (w : Word) : (rsvField w ++ hField w) ++ opField w = w := by
  apply BitVec.eq_of_toNat_eq
  simp only [rsvField, hField, opField, BitVec.toNat_append, BitVec.extractLsb'_toNat,
    Nat.shiftRight_eq_div_pow]
  have := w.isLt
  rw [← Nat.shiftLeft_add_eq_or_of_lt (by omega), ← Nat.shiftLeft_add_eq_or_of_lt (by omega)]
  simp only [Nat.shiftLeft_eq]
  omega

/-- An OP that decodes is the OP of the command it decodes to, and that command has H = 0. -/
theorem decodeOp_ok {op : BitVec 4} {i : Instr} (h : decodeOp op = .ok i) :
    op = opOf i ∧ hOf i = 0#1 := by
  obtain ⟨⟨n, hn⟩⟩ := op
  unfold decodeOp at h
  simp only [BitVec.toNat_ofFin] at h
  split at h <;> cases h <;> exact ⟨rfl, rfl⟩

/-- The bit of the half that a bit selects is that bit. -/
theorem bitOfHalf_halfOfBit (b : BitVec 1) : bitOfHalf (halfOfBit b) = b := by
  revert b; decide

end Sys2Proof
end

