-- ==== Sys2Proof/Laws/PerInstr.lean ====
section
/-!
SUPPORT. Statements made per instruction: the round trip of a command's word.
-/

/-- Decoding the word of a command gives the command back. -/
def Sys2Proof.Laws.RoundTrip.Statement (i : Sys2Proof.Instr) : Prop :=
  Sys2Proof.decode (Sys2Proof.encode i) = .ok i

namespace Sys2Proof.Laws.RoundTrip

theorem nop : Statement .nop := rfl
theorem build : Statement .build := rfl
theorem pxy : Statement .pxy := rfl
theorem pxc : Statement .pxc := rfl
theorem pxycc : Statement .pxycc := rfl
theorem cvt444 : Statement .cvt444 := rfl
theorem cvt420 (h : Half) : Statement (.cvt420 h) := by cases h <;> rfl

end Sys2Proof.Laws.RoundTrip
end

