-- ==== Sys2Proof/Laws/Tables.lean ====
section
/-!
SUPPORT. The entries of the tables that BUILD computes, and what the datapath gives over them.
-/

namespace Sys2Proof.Machine

@[simp] theorem tabulateTable_getElem (f : Fin 256 → Word) (i : Nat) (h : i < 256) :
    (tabulateTable f)[i] = f ⟨i, h⟩ := by simp [tabulateTable]

@[simp] theorem tabulateBuffer_getElem (f : Fin 64 → Word) (n : Nat) (h : n < 64) :
    (tabulateBuffer f)[n] = f ⟨n, h⟩ := by simp [tabulateBuffer]

/-- An integer that fits 32 bits survives its encoding. -/
theorem toInt_ofInt_of_fits {x : Int} (h : -2147483648 ≤ x) (h' : x < 2147483648) :
    (BitVec.ofInt 32 x).toInt = x := by
  rw [BitVec.toInt_ofInt]
  exact Int.bmod_eq_of_le (by simpa using h) (by simpa using h')

/-- Entry i of a linear table is slope × i + bias, if the table's numbers fit 32 bits. -/
theorem entry_linearTable {slope bias : Int} (i : Byte) (h : -8388608 ≤ slope * i.toNat + bias)
    (h' : slope * i.toNat + bias < 16777216) :
    Table.entry (linearTable slope bias) i = slope * i.toNat + bias := by
  simp only [Table.entry, linearTable, tabulateTable_getElem]
  exact toInt_ofInt_of_fits (by omega) (by omega)

section entries

/-! Entry i of each built table (spec/40_table_builder.md R133). -/

variable (i : Byte)

theorem entry_yr : Table.entry builtTables.yr i = 19595 * i.toNat := by
  have := i.isLt
  rw [show builtTables.yr = linearTable 19595 0 from rfl, entry_linearTable] <;> omega

theorem entry_yg : Table.entry builtTables.yg i = 38470 * i.toNat := by
  have := i.isLt
  rw [show builtTables.yg = linearTable 38470 0 from rfl, entry_linearTable] <;> omega

theorem entry_yb : Table.entry builtTables.yb i = 7471 * i.toNat + 32768 := by
  have := i.isLt
  rw [show builtTables.yb = linearTable 7471 32768 from rfl, entry_linearTable] <;> omega

theorem entry_cbR : Table.entry builtTables.cbR i = -11058 * i.toNat := by
  have := i.isLt
  rw [show builtTables.cbR = linearTable (-11058) 0 from rfl, entry_linearTable] <;> omega

theorem entry_cbG : Table.entry builtTables.cbG i = -21710 * i.toNat := by
  have := i.isLt
  rw [show builtTables.cbG = linearTable (-21710) 0 from rfl, entry_linearTable] <;> omega

theorem entry_cbB : Table.entry builtTables.cbB i = 32768 * i.toNat + 8421375 := by
  have := i.isLt
  rw [show builtTables.cbB = linearTable 32768 8421375 from rfl, entry_linearTable] <;> omega

theorem entry_crG : Table.entry builtTables.crG i = -27439 * i.toNat := by
  have := i.isLt
  rw [show builtTables.crG = linearTable (-27439) 0 from rfl, entry_linearTable] <;> omega

theorem entry_crB : Table.entry builtTables.crB i = -5329 * i.toNat := by
  have := i.isLt
  rw [show builtTables.crB = linearTable (-5329) 0 from rfl, entry_linearTable] <;> omega

end entries

/-- A right shift by ScaleBits is floor division by 65536. -/
theorem shift_scaleBits (x : Int) : x >>> scaleBits = x / 65536 := by
  rw [Int.shiftRight_eq_div_pow]; rfl

/-- A sample word of a value in [0,255] holds that value. -/
theorem sample_toNat {x : Int} (h : 0 ≤ x) (h' : x ≤ 255) : ((sample x).toNat : Int) = x := by
  rw [sample, BitVec.toNat_ofInt]
  omega

section datapath

/-! The datapath over the built tables, for every pixel. -/

variable (p : Pixel)

theorem accY_built :
    builtTables.accY p = 19595 * p.r.toNat + 38470 * p.g.toNat + (7471 * p.b.toNat + 32768) := by
  simp only [Tables.accY, entry_yr, entry_yg, entry_yb]

theorem accCb_built :
    builtTables.accCb p =
      -11058 * p.r.toNat + -21710 * p.g.toNat + (32768 * p.b.toNat + 8421375) := by
  simp only [Tables.accCb, entry_cbR, entry_cbG, entry_cbB]

theorem accCr_built :
    builtTables.accCr p =
      32768 * p.r.toNat + 8421375 + -27439 * p.g.toNat + -5329 * p.b.toNat := by
  simp only [Tables.accCr, entry_cbB, entry_crG, entry_crB]

/-- A luma sample over the built tables holds ACC_Y >>> 16, with no clamp. -/
theorem yOf_built : ((builtTables.yOf p).toNat : Int) = builtTables.accY p / 65536 := by
  have := p.r.isLt; have := p.g.isLt; have := p.b.isLt
  rw [Tables.yOf, shift_scaleBits]
  apply sample_toNat <;> rw [accY_built] <;> omega

/-- A Cb sample over the built tables holds ACC_Cb >>> 16, with no clamp. -/
theorem cbOf_built : ((builtTables.cbOf p).toNat : Int) = builtTables.accCb p / 65536 := by
  have := p.r.isLt; have := p.g.isLt; have := p.b.isLt
  rw [Tables.cbOf, shift_scaleBits]
  apply sample_toNat <;> rw [accCb_built] <;> omega

/-- A Cr sample over the built tables holds ACC_Cr >>> 16, with no clamp. -/
theorem crOf_built : ((builtTables.crOf p).toNat : Int) = builtTables.accCr p / 65536 := by
  have := p.r.isLt; have := p.g.isLt; have := p.b.isLt
  rw [Tables.crOf, shift_scaleBits]
  apply sample_toNat <;> rw [accCr_built] <;> omega

/-- Every luma sample over the built tables is in [0,255]. -/
theorem yOf_inRange : InRange (builtTables.yOf p) := by
  have := p.r.isLt; have := p.g.isLt; have := p.b.isLt
  have h := yOf_built p
  rw [accY_built] at h
  unfold InRange
  omega

/-- Every Cb sample over the built tables is in [0,255]. -/
theorem cbOf_inRange : InRange (builtTables.cbOf p) := by
  have := p.r.isLt; have := p.g.isLt; have := p.b.isLt
  have h := cbOf_built p
  rw [accCb_built] at h
  unfold InRange
  omega

/-- Every Cr sample over the built tables is in [0,255]. -/
theorem crOf_inRange : InRange (builtTables.crOf p) := by
  have := p.r.isLt; have := p.g.isLt; have := p.b.isLt
  have h := crOf_built p
  rw [accCr_built] at h
  unfold InRange
  omega

end datapath

section buffers

variable (b : Buffer) (h : Half) (f : Nat → Word) (n : Nat) (hn : n < 64)

/-- A word of a rewritten half of a chroma buffer. -/
theorem setRows_of_mem (hm : 32 * h.toNat ≤ n ∧ n < 32 * h.toNat + 32) :
    (Buffer.setRows b h f)[n] = f n := by simp [Buffer.setRows, hm]

/-- A word of the half of a chroma buffer that keeps its value. -/
theorem setRows_of_not_mem (hm : ¬(32 * h.toNat ≤ n ∧ n < 32 * h.toNat + 32)) :
    (Buffer.setRows b h f)[n] = b[n] := by
  simp only [Buffer.setRows, tabulateBuffer_getElem, if_neg hm]

/-- The two halves of a chroma buffer are written in either order (spec/43_subsampled.md R188). -/
theorem setRows_comm (g : Nat → Word) :
    Buffer.setRows (Buffer.setRows b .upper f) .lower g =
      Buffer.setRows (Buffer.setRows b .lower g) .upper f := by
  apply Vector.ext
  intro n hn
  simp only [Buffer.setRows, tabulateBuffer_getElem, Half.toNat]
  by_cases h : n < 32
  · simp [h, show ¬32 ≤ n by omega]
  · simp [h, show 32 ≤ n by omega]

end buffers

/-- An average is the byte whose value is the floor of a quarter of the sum
(spec/43_subsampled.md R184). -/
theorem average4_eq {a b c d m : Byte}
    (h : m.toNat = (a.toNat + b.toNat + c.toNat + d.toNat) / 4) : average4 a b c d = m := by
  apply BitVec.eq_of_toNat_eq
  have hm := m.isLt
  rw [average4, BitVec.toNat_ofNat, ← h]
  omega

section samples

variable (s : State) (k n : Nat) (f : Pixel → Word)

/-- The sample of a written pixel is its conversion. -/
@[simp] theorem sampleFor_some (p : Pixel) : s.sampleFor k n f (some p) = f p := rfl

/-- A sample that depends on an unwritten byte is a free value in [0,255]
(spec/93_implementation_defined.md U9). -/
@[simp] theorem sampleFor_none :
    s.sampleFor k n f none = (Config.freeSample s.epoch s.draws k n).setWidth 32 := rfl

/-- A sample is in [0,255] if the conversion is, written pixels or not. -/
theorem sampleFor_inRange {f : Pixel → Word} (hf : ∀ p, InRange (f p)) (o : Option Pixel) :
    InRange (s.sampleFor k n f o) := by
  cases o with
  | some p => exact hf p
  | none =>
    have h := (Config.freeSample s.epoch s.draws k n).isLt
    rw [sampleFor_none, InRange, BitVec.toNat_setWidth]
    omega

/-- The averaged triple of four written pixels (spec/43_subsampled.md R183, R184). -/
theorem boxPixel?_eq_some {j q : Nat} {a b c d : Pixel}
    (ha : s.blockPixel? (2 * j) (2 * q) = some a) (hb : s.blockPixel? (2 * j) (2 * q + 1) = some b)
    (hc : s.blockPixel? (2 * j + 1) (2 * q) = some c)
    (hd : s.blockPixel? (2 * j + 1) (2 * q + 1) = some d) :
    s.boxPixel? j q = some (averagePixel a b c d) := by
  rw [State.boxPixel?, ha, hb, hc, hd]; rfl

/-- An averaged triple is the pixel whose channels are the floors of a quarter of the sums
(spec/43_subsampled.md R184). -/
theorem averagePixel_eq {a b c d m : Pixel}
    (hr : m.r.toNat = (a.r.toNat + b.r.toNat + c.r.toNat + d.r.toNat) / 4)
    (hg : m.g.toNat = (a.g.toNat + b.g.toNat + c.g.toNat + d.g.toNat) / 4)
    (hb : m.b.toNat = (a.b.toNat + b.b.toNat + c.b.toNat + d.b.toNat) / 4) :
    averagePixel a b c d = m := by
  rw [averagePixel, average4_eq hr, average4_eq hg, average4_eq hb]

end samples

end Sys2Proof.Machine
end

