-- ==== Sys2Proof/Laws/Step.lean ====
section
/-!
SUPPORT. What each shared operation, each command and one step can do: one lemma each, which later
proofs cite instead of unfolding the definitions.
-/

namespace Sys2Proof.Machine

/-! ## The checks -/

/-- A conversion of one pixel has its effect or is NOTBUILT. -/
theorem convertPixel_cases (s u : State) :
    (s.tv = true ∧ s.convertPixel u = .next (u.complete .ok)) ∨
    (s.tv = false ∧ s.convertPixel u = .next (s.complete .notBuilt)) := by
  cases h : s.tv <;> simp [State.convertPixel, State.succeed, State.raise, h]

/-- A conversion of a block has its effect, is BOUNDS or is NOTBUILT, in that order of checks. -/
theorem convertBlock_cases (wd : Nat) (s u : State) :
    (s.tv = true ∧ s.inBounds wd = true ∧ s.convertBlock wd u = .next (u.complete .ok)) ∨
    (s.tv = true ∧ s.inBounds wd = false ∧ s.convertBlock wd u = .next (s.complete .bounds)) ∨
    (s.tv = false ∧ s.convertBlock wd u = .next (s.complete .notBuilt)) := by
  cases h : s.tv <;> cases h' : s.inBounds wd <;>
    simp [State.convertBlock, State.succeed, State.raise, h, h']

/-- A block conversion whose largest index is inside the pixel memory has its effect
(spec/20_memory.md R68). -/
theorem convertBlock_inside {s : State} (u : State) {wd : Nat} (h : s.tv = true)
    (hb : s.pixBase.toNat + 7 * s.pixStride.toNat + wd - 1 < s.nPix) :
    s.convertBlock wd u = .next (u.complete .ok) := by
  simp [State.convertBlock, h, State.inBounds, State.base, State.stride, hb, State.succeed]

/-! ## The commands -/

/-- What the operation of a command writes, before ERR and BUSY (spec/60_exceptions.md R218). -/
def commandEffect (i : Instr) (s : State) : State :=
  match i with
  | .nop => s
  | .build => s.setTables builtTables
  | .pxy => s.setResY (s.tables.yOf s.pixinPixel)
  | .pxc => s.setResC (s.tables.cbOf s.pixinPixel) (s.tables.crOf s.pixinPixel)
  | .pxycc => (s.setResY (s.tables.yOf s.pixinPixel)).setResC
      (s.tables.cbOf s.pixinPixel) (s.tables.crOf s.pixinPixel)
  | .cvt444 => s.setBufs s.fullBuffers
  | .cvt420 h => s.setBufs (s.subsampledBuffers h)

/-- A command performs its operation with OK, or raises a code and changes nothing else.  Only a
conversion raises, and a conversion that performs its operation has TV = 1. -/
theorem exec_cases (i : Instr) (s : State) :
    (exec i s = .next ((commandEffect i s).complete .ok) ∧
      (i = .nop ∨ i = .build ∨ s.tv = true)) ∨
    (∃ c, c ≠ .ok ∧ c ≠ .illegal ∧ i ≠ .nop ∧ i ≠ .build ∧ exec i s = .next (s.complete c)) := by
  have pixel : exec i s = s.convertPixel (commandEffect i s) → i ≠ .nop → i ≠ .build →
      (exec i s = .next ((commandEffect i s).complete .ok) ∧
        (i = .nop ∨ i = .build ∨ s.tv = true)) ∨
      (∃ c, c ≠ .ok ∧ c ≠ .illegal ∧ i ≠ .nop ∧ i ≠ .build ∧ exec i s = .next (s.complete c)) := by
    intro he h1 h2
    rw [he]
    rcases convertPixel_cases s (commandEffect i s) with ⟨h, h'⟩ | ⟨-, h'⟩
    · exact .inl ⟨h', .inr (.inr h)⟩
    · exact .inr ⟨.notBuilt, nofun, nofun, h1, h2, h'⟩
  have block : ∀ wd, exec i s = s.convertBlock wd (commandEffect i s) → i ≠ .nop → i ≠ .build →
      (exec i s = .next ((commandEffect i s).complete .ok) ∧
        (i = .nop ∨ i = .build ∨ s.tv = true)) ∨
      (∃ c, c ≠ .ok ∧ c ≠ .illegal ∧ i ≠ .nop ∧ i ≠ .build ∧ exec i s = .next (s.complete c)) := by
    intro wd he h1 h2
    rw [he]
    rcases convertBlock_cases wd s (commandEffect i s) with ⟨h, -, h'⟩ | ⟨-, -, h'⟩ | ⟨-, h'⟩
    · exact .inl ⟨h', .inr (.inr h)⟩
    · exact .inr ⟨.bounds, nofun, nofun, h1, h2, h'⟩
    · exact .inr ⟨.notBuilt, nofun, nofun, h1, h2, h'⟩
  cases i with
  | nop => exact .inl ⟨rfl, .inl rfl⟩
  | build => exact .inl ⟨rfl, .inr (.inl rfl)⟩
  | pxy => exact pixel rfl nofun nofun
  | pxc => exact pixel rfl nofun nofun
  | pxycc => exact pixel rfl nofun nofun
  | cvt444 => exact block 8 rfl nofun nofun
  | cvt420 h => exact block 16 rfl nofun nofun

/-- The engine's turn: nothing while BUSY = 0, and else the completion of the decoded command or of
a reserved word. -/
theorem engineTurn_cases (s : State) :
    (s.busy = false ∧ engineTurn s = .next s) ∨
    (∃ i, s.busy = true ∧ decode s.cur = .ok i ∧ engineTurn s = exec i s) ∨
    (∃ e, s.busy = true ∧ decode s.cur = .error e ∧
      engineTurn s = .next (s.complete .illegal)) := by
  cases hb : s.busy with
  | false => exact .inl ⟨rfl, by simp [engineTurn, hb]⟩
  | true =>
    cases hd : decode s.cur with
    | ok i => exact .inr (.inl ⟨i, rfl, rfl, by simp [engineTurn, hb, State.fetchWord, hd]⟩)
    | error e =>
      exact .inr (.inr ⟨e, rfl, rfl, by
        simp [engineTurn, hb, State.fetchWord, hd, completeReserved, State.raise]⟩)

/-- The engine's turn always has a next state (spec/93_implementation_defined.md). -/
theorem engineTurn_next (s : State) : ∃ t, engineTurn s = .next t := by
  rcases engineTurn_cases s with ⟨-, h⟩ | ⟨i, -, -, h⟩ | ⟨e, -, -, h⟩
  · exact ⟨_, h⟩
  · rcases exec_cases i s with ⟨h', -⟩ | ⟨c, -, -, -, -, h'⟩ <;> exact ⟨_, h.trans h'⟩
  · exact ⟨_, h⟩

/-! ## The host -/

/-- The host's turn: nothing, a branch, or one access with its one response. -/
theorem hostTurn_cases (s : State) :
    (s.host.line? = none ∧ s.hostTurn = s) ∨
    (∃ m t, s.host.line? = some (.bnz m t) ∧ s.hostTurn = s.setHost (s.host.branch m t)) ∨
    (∃ x, s.host.line? = some (.access x) ∧
      s.hostTurn = (s.afterAccess x).setHost (s.host.answered (s.respond x))) := by
  cases h : s.host.line? with
  | none => exact .inl ⟨rfl, by simp [State.hostTurn, h]⟩
  | some l =>
    cases l with
    | bnz m t => exact .inr (.inl ⟨m, t, rfl, by simp [State.hostTurn, h]⟩)
    | access x => exact .inr (.inr ⟨x, rfl, by simp [State.hostTurn, h]⟩)

/-! ## One step -/

/-- A step is a host line, the engine's turn or a reset, of the state with its turn taken off. -/
theorem step_cases (s : State) :
    ∃ ts, (step s = .next (s.setTurns ts).hostTurn ∧ s.nextTurn = (.host, s.setTurns ts)) ∨
      (step s = engineTurn (s.setTurns ts) ∧ s.nextTurn = (.engine, s.setTurns ts)) ∨
      (step s = .next (s.setTurns ts).resetEvent ∧ s.nextTurn = (.reset, s.setTurns ts)) := by
  have self : s.turns = [] → s.setTurns [] = s := by
    intro h; rw [State.setTurns, ← h]
  cases ht : s.turns with
  | nil =>
    refine ⟨[], ?_⟩
    rw [self ht]
    cases hb : s.busy with
    | true =>
      have h : s.nextTurn = (.engine, s) := by simp [State.nextTurn, ht, hb]
      exact .inr (.inl ⟨by simp [step, h, turnStep], h⟩)
    | false =>
      have h : s.nextTurn = (.host, s) := by simp [State.nextTurn, ht, hb]
      exact .inl ⟨by simp [step, h, turnStep], h⟩
  | cons t ts =>
    have h : s.nextTurn = (t, s.setTurns ts) := by simp [State.nextTurn, ht]
    refine ⟨ts, ?_⟩
    cases t with
    | host => exact .inl ⟨by simp [step, h, turnStep], h⟩
    | engine => exact .inr (.inl ⟨by simp [step, h, turnStep], h⟩)
    | reset => exact .inr (.inr ⟨by simp [step, h, turnStep], h⟩)

/-- A run of n + 1 steps is one step and a run of n steps. -/
theorem run_succ (n : Nat) {s t : State} (h : step s = .next t) :
    Sys2Proof.core.run (n + 1) s = Sys2Proof.core.run n t := by
  have general : ∀ (M : Host.Core) (a b : M.State), M.step a = .next b →
      M.run (n + 1) a = M.run n b := by
    intro M a b h
    simp only [Host.Core.run, h]
  exact general Sys2Proof.core s t h

end Sys2Proof.Machine
end

