-- ==== Sys2Proof/Tests/Slice0.lean ====
section
/-!
SUPPORT. The tests: what the well-formedness checks refuse, words written out from
spec/30_encoding.md, values of spec/95_test_vectors.md, and for every obligation with hypotheses a
state and operands that meet them all together.
-/

namespace Sys2Proof.Tests

open Sys2Proof Sys2Proof.Machine

/-! ## Small states -/

/-- A buffer of 64 equal words. -/
def flat (w : Word) : Buffer := tabulateBuffer fun _ => w

/-- The state after BUILD with N_PIX = 1024, BUSY = 0 and no command in flight
(spec/95_test_vectors.md, "After BUILD"). -/
def ready : State where
  cur       := 1
  busy      := false
  tv        := true
  ovr       := false
  err       := .ok
  pixBase   := 0
  pixStride := 0
  pixin     := ⟨0, 0, 0⟩
  resY      := 0
  resCb     := 0
  resCr     := 0
  nPix      := 1024
  tables    := builtTables
  bufs      := ⟨flat 7, flat 7, flat 7, flat 7, flat 7, flat 7⟩
  pixMem    := []
  epoch     := 0
  draws     := 0
  host      := .idle
  turns     := []

/-- `ready` with PIXIN = (r, g, b). -/
def withPixin (r g b : Byte) : State := { ready with pixin := ⟨r, g, b⟩ }

/-- `ready` with the geometry base, stride. -/
def withGeom (base stride : BitVec 16) : State :=
  { ready with pixBase := base, pixStride := stride }

/-- `ready` with the command word `w` in flight. -/
def inFlight (w : Word) : State := { ready with cur := w, busy := true }

/-- `ready` with a host about to run `lines`, and the turns `ts`. -/
def running (lines : List Line) (ts : List Turn) : State :=
  { ready.loadScript lines with turns := ts }

/-- The next state of an outcome. -/
def next? : Host.Outcome State Fault Refusal → Option State
  | .next t => some t
  | .fault _ => none
  | .refused _ => none

/-- STATUS, RES_Y, RES_CB and RES_CR of the next state of an outcome. -/
def results (o : Host.Outcome State Fault Refusal) : Option (Nat × Nat × Nat × Nat) :=
  (next? o).map fun t => (t.statusWord.toNat, t.resY.toNat, t.resCb.toNat, t.resCr.toNat)

/-- STATUS of the next state of an outcome. -/
def status (o : Host.Outcome State Fault Refusal) : Option Nat :=
  (next? o).map fun t => t.statusWord.toNat

/-! ## Well-formedness (spec/00_scope.md R6, spec/30_encoding.md R107, R108) -/

theorem test_wf_nPix : WellFormed.nPix 128 && WellFormed.nPix 1024 && WellFormed.nPix 16384 := by
  decide
theorem test_wf_nPix_not_multiple : WellFormed.nPix 1022 = false := by decide
theorem test_wf_nPix_small : WellFormed.nPix 124 = false := by decide
theorem test_wf_nPix_large : WellFormed.nPix 16388 = false := by decide
theorem test_wf_width : WellFormed.script [.read 3 0x4000] = false := by decide
theorem test_wf_value : WellFormed.script [.write 1 0x4000 0x100] = false := by decide
theorem test_wf_undeclared_label : WellFormed.script [.bnz 1 5] = false := by decide
theorem test_wf_duplicate_label : WellFormed.script [.label 5, .wait, .label 5] = false := by decide
theorem test_wf_setpix : WellFormed.script [.setpix 255 256 0] = false := by decide
theorem test_wf_setgeom : WellFormed.script [.setgeom 0 4294967296] = false := by decide
theorem test_wf_script :
    WellFormed.script [.label 5, .setpix 255 0 0, .cmd .pxy, .wait, .bnz 2 5] = true := by decide

/-! ## Decoding: RSV, H and OP written out (spec/30_encoding.md R100, R101, R103) -/

theorem test_decode_nop : decode 0b000000000000000000000000000_0_0000#32 = .ok .nop := by decide
theorem test_decode_build : decode 0b000000000000000000000000000_0_0001#32 = .ok .build := by decide
theorem test_decode_pxy : decode 0b000000000000000000000000000_0_0010#32 = .ok .pxy := by decide
theorem test_decode_pxc : decode 0b000000000000000000000000000_0_0011#32 = .ok .pxc := by decide
theorem test_decode_pxycc : decode 0b000000000000000000000000000_0_0100#32 = .ok .pxycc := by decide
theorem test_decode_cvt444 : decode 0b000000000000000000000000000_0_0101#32 = .ok .cvt444 := by
  decide
theorem test_decode_cvt420_upper :
    decode 0b000000000000000000000000000_0_0110#32 = .ok (.cvt420 .upper) := by decide
theorem test_decode_cvt420_lower :
    decode 0b000000000000000000000000000_1_0110#32 = .ok (.cvt420 .lower) := by decide

/-- The illegal words of spec/95_test_vectors.md section 6. -/
theorem test_decode_illegal :
    [0x00000007#32, 0x00000008#32, 0x0000000F#32, 0x00000010#32, 0x00000011#32, 0x00000015#32,
      0x00000017#32, 0x0000001F#32, 0x00000020#32, 0x00000026#32, 0x00000036#32, 0x80000000#32,
      0x80000006#32, 0xFFFFFFFF#32].all (fun w => (decode w).toOption.isNone) = true := by decide

/-- The word is taken as it stands: a bit above the row's bits is 0, and a bit above 31 is not. -/
theorem test_decodeTableWord :
    decodeTableWord 32 0x16 = some (.cvt420 .lower) ∧ decodeTableWord 32 0x20 = none ∧
    decodeTableWord 32 0x4 = some .pxycc := by decide

/-! ## BUILD (spec/95_test_vectors.md V-T1, V-T5) -/

theorem test_build_low_entries :
    (builtTables.yr[1], builtTables.yb[0], builtTables.cbR[128], builtTables.cbG[128]) =
      (0x00004C8B, 0x00008000, 0xFFEA6700, 0xFFD59900) := by decide +kernel

theorem test_build_high_entries :
    (builtTables.yg[255], builtTables.cbB[255], builtTables.crG[254], builtTables.crB[255]) =
      (0x0095AFBA, 0x00FFFFFF, 0xFF95A75E, 0xFFEB43D1) := by decide +kernel

theorem test_build_from_reset :
    status (exec .build { State.reset with cur := 1, busy := true }) = some 0x2 := by decide +kernel

/-! ## NOP (spec/95_test_vectors.md section 6) -/

theorem test_nop_clears_err :
    status (exec .nop { ready with err := .bounds, busy := true }) = some 0x2 := by decide +kernel

theorem test_nop_before_build :
    status (exec .nop { State.reset with busy := true }) = some 0x0 := by decide +kernel

/-! ## Single pixels (spec/95_test_vectors.md V-P12, V-P14, V-P17, V-P20, V-P21) -/

/-- A general pixel, and one whose luma is one above the reference. -/
theorem test_pxycc :
    [results (exec .pxycc (withPixin 100 150 200)), results (exec .pxycc (withPixin 0 245 6))] =
      [some (2, 141, 161, 99), some (2, 145, 50, 25)] := by decide +kernel

theorem test_pxy_keeps_chroma :
    results (exec .pxy { withPixin 255 0 0 with resY := 141, resCb := 161, resCr := 99 }) =
      some (2, 76, 161, 99) := by decide +kernel

theorem test_pxc_keeps_luma :
    results (exec .pxc { withPixin 0 0 255 with resY := 76, resCb := 161, resCr := 99 }) =
      some (2, 76, 255, 107) := by decide +kernel

theorem test_pxc_rounding : results (exec .pxc (withPixin 0 15 15)) = some (2, 0, 131, 120) := by
  decide +kernel

/-! ## CVT444 (spec/95_test_vectors.md V-F6, V-F7) -/

/-- Pixel 14 is grey 14 and pixel 20 is grey 20: with base 5 and stride 9, words 8 and 14. -/
theorem test_cvt444_addressing :
    ((next? (exec .cvt444 { withGeom 5 9 with
        pixMem := [(42, 14), (43, 14), (44, 14), (60, 20), (61, 20), (62, 20)] })).map fun t =>
      (t.bufs.yb0[8], t.bufs.yb0[14], t.bufs.cb[8], t.bufs.cr[14], t.bufs.yb1[8])) =
      some (14, 20, 128, 128, 7) := by decide +kernel

/-- R and G of pixel 0 are written and B is not: the sample is a free value in [0,255], and not the
luma of some B (spec/93_implementation_defined.md U9). -/
theorem test_cvt444_unwritten_byte :
    ((next? (exec .cvt444 { withGeom 0 8 with pixMem := [(0, 0), (1, 0)] })).map fun t =>
      t.bufs.yb0[0]) = some ((Config.freeSample 0 0 0 0).setWidth 32) := rfl

theorem test_cvt444_bounds :
    [status (exec .cvt444 (withGeom 960 8)), status (exec .cvt444 (withGeom 961 8)),
      status (exec .cvt444 (withGeom 0 145)), status (exec .cvt444 (withGeom 0 146)),
      status (exec .cvt444 (withGeom 1016 0)), status (exec .cvt444 (withGeom 1017 0)),
      status (exec .cvt444 (withGeom 65535 65535))] =
      [some 0x02, some 0x32, some 0x02, some 0x32, some 0x02, some 0x32, some 0x32] := by
  decide +kernel

/-! ## CVT420 (spec/95_test_vectors.md V-S3, V-S6, V-S7, V-S9) -/

/-- The bytes of pixels 0, 1, 16 and 17. -/
def quad (a b c d : Byte × Byte × Byte) : Memory :=
  [(0, a.1), (1, a.2.1), (2, a.2.2), (3, b.1), (4, b.2.1), (5, b.2.2),
    (48, c.1), (49, c.2.1), (50, c.2.2), (51, d.1), (52, d.2.1), (53, d.2.2)]

/-- V-S6: the sum 767 is divided with no rounding, and only CB and CR rows 0 to 3 are written. -/
theorem test_cvt420_truncates :
    ((next? (exec (.cvt420 .upper) { withGeom 0 16 with
        pixMem := quad (255, 0, 0) (255, 0, 0) (255, 0, 0) (2, 0, 0) })).map fun t =>
      (t.bufs.cb[0], t.bufs.cr[0], t.bufs.cb[32], t.bufs.cr[63])) = some (96, 223, 7, 7) := by
  decide +kernel

/-- V-S3 through the lower half: chroma of the average and not the average of the chroma, in word 32,
and the luma of pixel 17 in word 9 of YB2. -/
theorem test_cvt420_averages_first :
    ((next? (exec (.cvt420 .lower) { withGeom 0 16 with
        pixMem := quad (255, 0, 0) (0, 0, 255) (0, 255, 0) (0, 0, 0) })).map fun t =>
      (t.bufs.cb[32], t.bufs.cr[32], t.bufs.yb2[1], t.bufs.yb2[8], t.bufs.yb0[0], t.bufs.cb[0])) =
      some (128, 128, 29, 150, 7, 7) := by decide +kernel

theorem test_cvt420_bounds :
    [status (exec (.cvt420 .upper) (withGeom 0 144)), status (exec (.cvt420 .upper) (withGeom 1 144)),
      status (exec (.cvt420 .lower) (withGeom 896 16)), status (exec (.cvt420 .lower) (withGeom 897 16)),
      status (exec (.cvt420 .upper) (withGeom 1008 0)),
      status (exec (.cvt420 .upper) (withGeom 1009 0))] =
      [some 0x02, some 0x32, some 0x02, some 0x32, some 0x02, some 0x32] := by decide +kernel

/-! ## Errors (spec/95_test_vectors.md V-P21, V-F8, V-S9) -/

/-- NOTBUILT comes before BOUNDS. -/
theorem test_not_built :
    [results (exec .pxycc { State.reset with pixin := ⟨255, 0, 0⟩ }),
      results (exec .cvt444 { State.reset with pixBase := 2000, pixStride := 8 }),
      results (exec (.cvt420 .lower) { State.reset with pixStride := 16 })] =
      [some (0x20, 0, 0, 0), some (0x20, 0, 0, 0), some (0x20, 0, 0, 0)] := by decide +kernel

theorem test_reserved_word : results (step (inFlight 0x12)) = some (0x12, 0, 0, 0) := by
  decide +kernel

/-! ## Host accesses (spec/95_test_vectors.md V-M1, V-M2) -/

/-- `ready` after the 32-bit writes of V-M1. -/
def written : State :=
  ((ready.afterAccess (.write 0x4000 4 0x44332211)).afterAccess (.write 0x4004 4 0x88776655)).afterAccess
    (.write 0x4005 1 0x99)

theorem test_little_endian :
    [written.respond (.read 0x4000 1), written.respond (.read 0x4003 1),
      written.respond (.read 0x4000 2), written.respond (.read 0x4002 2),
      written.respond (.read 0x4004 4)] =
      [.data 0x11, .data 0x44, .data 0x2211, .data 0x4433, .data 0x88779955] := by decide +kernel

theorem test_pixel_bytes :
    written.pixel? 0 = some ⟨0x11, 0x22, 0x33⟩ ∧ written.byte? 3 = some 0x44 ∧
    written.pixel? 2 = none := by decide +kernel

/-- The boundary offsets of each cause, in the order of spec/60_exceptions.md R216. -/
theorem test_bus_causes :
    [ready.busCause (.read 0x4000 3), ready.busCause (.read 0x4001 2), ready.busCause (.read 0x0024 4),
      ready.busCause (.read 0x03FC 4), ready.busCause (.read 0x0A00 4), ready.busCause (.read 0x1FFC 4),
      ready.busCause (.read 0x4C00 1), ready.busCause (.read 0xFFFC 4), ready.busCause (.read 0x0004 1),
      ready.busCause (.write 0x09FC 4 0), ready.busCause (.write 0x2000 4 0),
      { ready with tv := false }.busCause (.read 0x3FFC 4), (inFlight 1).busCause (.read 0x0020 4),
      ready.busCause (.read 0x0020 4), ready.busCause (.write 0x4BFF 1 0)] =
      [some .widthOrAlignment, some .widthOrAlignment, some .reservedOffset, some .reservedOffset,
        some .reservedOffset, some .reservedOffset, some .reservedOffset, some .reservedOffset,
        some .notWordAccess, some .readOnly, some .readOnly, some .tableNotBuilt, some .busy,
        none, none] := by decide +kernel

theorem test_reserved_bits :
    [(ready.afterAccess (.write 0x0008 4 0x12345678)).respond (.read 0x0008 4),
      (ready.afterAccess (.write 0x000C 4 0xFFFFFFFF)).respond (.read 0x000C 4),
      (ready.afterAccess (.write 0x0010 4 0xFFFFFFFF)).respond (.read 0x0010 4),
      ready.respond (.read 0x0020 4), ready.respond (.read 0x0000 4)] =
      [.data 0x5678, .data 0xFFFF, .data 0x00FFFFFF, .data 0x400, .data 0] := by decide +kernel

/-- PIXIN's fields (V-P12, V-P21). -/
theorem test_pixin_fields :
    (ready.afterAccess (.write 0x0010 4 0x00C89664)).pixin = ⟨100, 150, 200⟩ ∧
    (ready.afterAccess (.write 0x0010 4 0xAB0000FF)).pixin = ⟨255, 0, 0⟩ ∧
    (withPixin 100 150 200).respond (.read 0x0010 4) = .data 0x00C89664 := by decide +kernel

theorem test_busy_status : (inFlight 1).respond (.read 0x0004 4) = .data 0x3 := by decide +kernel

/-! ## Two CMD writes without a WAIT between (spec/95_test_vectors.md P5) -/

/-- Interleaving (a): the PXY write comes after BUILD's completion, and is accepted. -/
theorem test_write_after_completion :
    ((next? (step (running [w32 offCmd 2] [.host]))).map fun t => (t.cur, t.statusWord)) =
      some (2, 0x3) := by decide +kernel

/-- Interleaving (b): the PXY write comes while BUILD is in flight, and is discarded. -/
theorem test_write_while_busy :
    ((next? (step { running [w32 offCmd 2] [.host] with busy := true })).map fun t =>
      (t.cur, t.statusWord)) = some (1, 0x7) := by decide +kernel

/-! ## Witnesses: states and operands that meet the hypotheses of each obligation -/

theorem witness_EngineTurnRunsDecodedCommand :
    ((inFlight 0x16).busy = true ∧ decode (inFlight 0x16).cur = .ok (.cvt420 .lower) ∧
      (inFlight 0x16).turns = []) ∧
    ({ inFlight 0x04 with turns := [.engine, .host] }.busy = true ∧
      decode { inFlight 0x04 with turns := [.engine, .host] }.cur = .ok .pxycc ∧
      { inFlight 0x04 with turns := [.engine, .host] }.turns = .engine :: [.host]) := by
  decide +kernel

theorem witness_ReservedWordCompletesWithIllegal :
    ∀ w ∈ [0x00000007#32, 0x00000011#32, 0x80000006#32], ∃ e,
      { inFlight w with turns := [.engine] }.busy = true ∧
      decode { inFlight w with turns := [.engine] }.cur = .error e ∧
      { inFlight w with turns := [.engine] }.turns = .engine :: [] := by
  intro w hw
  simp only [List.mem_cons, List.not_mem_nil, or_false] at hw
  rcases hw with rfl | rfl | rfl
  · exact ⟨.reservedOp, rfl, rfl, rfl⟩
  · exact ⟨.halfSet, rfl, rfl, rfl⟩
  · exact ⟨.nonzeroRsv, rfl, rfl, rfl⟩

/-- The state after BUILD from the state after reset, which `BuildFillsTheTables`, `TableEntryRanges`,
`ConversionClosedForms` and `GreyPixelsConvertToThemselves` start from. -/
theorem witness_build : ∃ t, exec .build State.reset = .next t := ⟨_, rfl⟩

theorem witness_RepeatedBuildKeepsTables :
    ∃ t u, exec .build State.reset = .next t ∧ exec .build { t with resY := 3 } = .next u ∧
      { t with resY := 3 }.tables = t.tables ∧ { t with resY := 3 }.tv = t.tv :=
  ⟨_, _, rfl, rfl, rfl, rfl⟩

/-- For PXY, PXC and PXYCC. -/
theorem witness_single_pixel : (withPixin 100 150 200).tv = true := rfl

/-- The boundary geometries of spec/95_test_vectors.md V-F7, with the first and the last pixel of a block
written. -/
theorem witness_Cvt444ConvertsEveryPixel :
    (∀ s ∈ [withGeom 960 8, withGeom 0 145, withGeom 1016 0],
      s.tv = true ∧ s.pixBase.toNat + 7 * s.pixStride.toNat + 7 < s.nPix) ∧
    { withGeom 0 0 with pixMem := quad (1, 2, 3) (4, 5, 6) (0, 0, 0) (0, 0, 0) }.pixel?
      (0 + 0 * 0 + 0) = some ⟨1, 2, 3⟩ ∧
    { withGeom 960 8 with pixMem := [(3069, 1), (3070, 2), (3071, 3)] }.pixel? (960 + 7 * 8 + 7) =
      some ⟨1, 2, 3⟩ := by
  refine ⟨fun s hs => ?_, by decide +kernel, by decide +kernel⟩
  simp only [List.mem_cons, List.not_mem_nil, or_false] at hs
  rcases hs with rfl | rfl | rfl <;> exact ⟨rfl, by decide⟩

theorem witness_Cvt444SampleSeesOnlyItsPixel :
    ∃ s' t', exec .cvt444 { withGeom 0 8 with pixMem := [(0, 9), (1, 9), (2, 9)] } = .next s' ∧
      exec .cvt444 { withGeom 0 8 with pixMem := [(0, 9), (1, 9), (2, 9), (3, 4)] } = .next t' ∧
      s'.err = .ok ∧ t'.err = .ok ∧
      { withGeom 0 8 with pixMem := [(0, 9), (1, 9), (2, 9)] }.tables =
        { withGeom 0 8 with pixMem := [(0, 9), (1, 9), (2, 9), (3, 4)] }.tables ∧
      { withGeom 0 8 with pixMem := [(0, 9), (1, 9), (2, 9)] }.pixel? (0 + 0 * 8 + 0) =
        some ⟨9, 9, 9⟩ ∧
      { withGeom 0 8 with pixMem := [(0, 9), (1, 9), (2, 9), (3, 4)] }.pixel? (0 + 0 * 8 + 0) =
        some ⟨9, 9, 9⟩ :=
  ⟨_, _, rfl, rfl, rfl, rfl, rfl, rfl, rfl⟩

/-- The boundary geometries of spec/95_test_vectors.md V-S9, for both CVT420 statements and either
half, with the first and the last pixel of a region written. -/
theorem witness_Cvt420PlacesLumaAtFullResolution :
    (∀ s ∈ [withGeom 0 144, withGeom 896 16, withGeom 1008 0],
      s.tv = true ∧ s.pixBase.toNat + 7 * s.pixStride.toNat + 15 < s.nPix) ∧
    { withGeom 0 144 with pixMem := [(0, 1), (1, 2), (2, 3)] }.pixel? (0 + 0 * 144 + 0) =
      some ⟨1, 2, 3⟩ ∧
    { withGeom 896 16 with pixMem := [(3069, 1), (3070, 2), (3071, 3)] }.pixel?
      (896 + 7 * 16 + 15) = some ⟨1, 2, 3⟩ := by
  refine ⟨fun s hs => ?_, by decide +kernel, by decide +kernel⟩
  simp only [List.mem_cons, List.not_mem_nil, or_false] at hs
  rcases hs with rfl | rfl | rfl <;> exact ⟨rfl, by decide⟩

/-- V-S6, at row pair 0 and column 0. -/
theorem witness_Cvt420ConvertsAveragedChroma :
    ∃ s : State, s.tv = true ∧ s.pixBase.toNat + 7 * s.pixStride.toNat + 15 < s.nPix ∧
      s.pixel? (s.pixBase.toNat + 2 * 0 * s.pixStride.toNat + 2 * 0) = some ⟨255, 0, 0⟩ ∧
      s.pixel? (s.pixBase.toNat + 2 * 0 * s.pixStride.toNat + 2 * 0 + 1) = some ⟨255, 0, 0⟩ ∧
      s.pixel? (s.pixBase.toNat + (2 * 0 + 1) * s.pixStride.toNat + 2 * 0) = some ⟨255, 0, 0⟩ ∧
      s.pixel? (s.pixBase.toNat + (2 * 0 + 1) * s.pixStride.toNat + 2 * 0 + 1) =
        some ⟨2, 0, 0⟩ ∧
      (191#8).toNat = ((255#8).toNat + (255#8).toNat + (255#8).toNat + (2#8).toNat) / 4 ∧
      (0#8).toNat = ((0#8).toNat + (0#8).toNat + (0#8).toNat + (0#8).toNat) / 4 :=
  ⟨{ withGeom 0 16 with pixMem := quad (255, 0, 0) (255, 0, 0) (255, 0, 0) (2, 0, 0) },
    by decide +kernel⟩

/-- A memory of n bytes 5 from offset a on reads as 5 there. -/
theorem get?_uniform (a n k : Nat) (h : k < n) :
    Memory.get? ((List.range' a n).map fun i => (i, 5)) (a + k) = some 5 := by
  induction n generalizing a k with
  | zero => omega
  | succ n ih =>
    rw [List.range'_succ, List.map_cons, Memory.get?]
    cases k with
    | zero => simp
    | succ k =>
      rw [if_neg (by omega), if_neg (by omega), show a + (k + 1) = a + 1 + k by omega]
      exact ih (a + 1) k (by omega)

/-- The last macroblock of the memory with stride 16, every byte of it 5. -/
def lastMacroblock : State := { ready with pixMem := (List.range' 2304 768).map fun i => (i, 5) }

/-- Every pixel of it is (5, 5, 5), and so is every average. -/
theorem witness_MacroblockHalvesInEitherOrder :
    lastMacroblock.tv = true ∧ lastMacroblock.nPix ≤ 16384 ∧ 16 ≤ 16 ∧
    768 + 15 * 16 + 15 < lastMacroblock.nPix ∧
    (∀ r c, r < 16 → c < 16 → lastMacroblock.pixel? (768 + r * 16 + c) = some ⟨5, 5, 5⟩) ∧
    (5#8).toNat = ((5#8).toNat + (5#8).toNat + (5#8).toNat + (5#8).toNat) / 4 := by
  refine ⟨rfl, by decide, by decide, by decide, fun r c hr hc => ?_, by decide⟩
  rw [State.pixel?_eq_some_iff]
  have h := fun k hk => get?_uniform 2304 768 k hk
  refine ⟨?_, ?_, ?_⟩
  · rw [show 3 * (768 + r * 16 + c) = 2304 + 3 * (r * 16 + c) by omega]
    exact h _ (by omega)
  · rw [show 3 * (768 + r * 16 + c) + 1 = 2304 + (3 * (r * 16 + c) + 1) by omega]
    exact h _ (by omega)
  · rw [show 3 * (768 + r * 16 + c) + 2 = 2304 + (3 * (r * 16 + c) + 2) by omega]
    exact h _ (by omega)

/-- Both clauses: CVT444, and either half of CVT420, from a state of the invariant, at the first and
the last word that each writes. -/
theorem witness_BlockSamplesAreInRange :
    (withGeom 0 16).Inv ∧
    (∃ t v w, exec .cvt444 (withGeom 0 16) = .next t ∧ t.err = .ok ∧ t.bufs.yb0[0]? = some v ∧
      t.bufs.cr[63]? = some w) ∧
    (∃ t v w, exec (.cvt420 .upper) (withGeom 0 16) = .next t ∧ t.err = .ok ∧
      (t.bufs.get (bufOfNumber (2 * 0 + 1)))[63]? = some v ∧ t.bufs.cb[0]? = some w) ∧
    ∃ t v w, exec (.cvt420 .lower) (withGeom 0 16) = .next t ∧ t.err = .ok ∧
      (t.bufs.get (bufOfNumber (2 * 1 + 1)))[63]? = some v ∧ t.bufs.cr[63]? = some w :=
  ⟨⟨by decide, rfl, by simp [withGeom, ready, Memory.Inside], fun _ => rfl, Nat.zero_le _,
    Nat.zero_le _, Nat.zero_le _⟩, ⟨_, _, _, rfl, rfl, rfl, rfl⟩, ⟨_, _, _, rfl, rfl, rfl, rfl⟩,
    ⟨_, _, _, rfl, rfl, rfl, rfl⟩⟩

theorem witness_ConversionsRaiseNotBuilt :
    Instr.cvt444 ≠ .nop ∧ Instr.cvt444 ≠ .build ∧ State.reset.tv = false := by decide

/-- Both clauses for both widths, on either side of the bound (V-F7, V-S9). -/
theorem witness_BlocksBeyondMemoryRaiseBounds :
    ((withGeom 961 8).tv = true ∧ 7 < 8 ∧ 7 < 8 ∧
      (withGeom 961 8).nPix ≤ (withGeom 961 8).pixBase.toNat + 7 * (withGeom 961 8).pixStride.toNat + 7) ∧
    ((withGeom 960 8).tv = true ∧ ∀ r < 8, ∀ c < 8,
      (withGeom 960 8).pixBase.toNat + r * (withGeom 960 8).pixStride.toNat + c <
        (withGeom 960 8).nPix) ∧
    ((withGeom 897 16).tv = true ∧ 7 < 8 ∧ 15 < 16 ∧
      (withGeom 897 16).nPix ≤
        (withGeom 897 16).pixBase.toNat + 7 * (withGeom 897 16).pixStride.toNat + 15) ∧
    ((withGeom 896 16).tv = true ∧ ∀ r < 8, ∀ c < 16,
      (withGeom 896 16).pixBase.toNat + r * (withGeom 896 16).pixStride.toNat + c <
        (withGeom 896 16).nPix) := by decide +kernel

theorem witness_FailedCommandWritesNothing :
    ∃ t, (inFlight 7).busy = true ∧ engineTurn (inFlight 7) = .next t ∧ t.err ≠ .ok :=
  ⟨_, rfl, rfl, nofun⟩

theorem witness_CompletionsKeepTheOperands :
    ∃ t, (inFlight 4).busy = true ∧ engineTurn (inFlight 4) = .next t := ⟨_, rfl, rfl⟩

/-- A reset, and the completion of BUILD. -/
theorem witness_OnlyBuildWritesTheTables :
    (∃ t, step { ready with turns := [.reset] } = .next t ∧ t.tv ≠ true) ∧
    (∃ t, step (State.reset.withFetchWord 32 1) = .next t ∧ t.tv ≠ false) :=
  ⟨⟨_, rfl, nofun⟩, ⟨_, rfl, nofun⟩⟩

/-- A reset, and a completion. -/
theorem witness_ErrChangesOnlyAtCompletion :
    (∃ t, step { ready with err := .bounds, turns := [.reset] } = .next t ∧ t.err ≠ .bounds) ∧
    (∃ t, step (inFlight 7) = .next t ∧ t.err ≠ .ok) := ⟨⟨_, rfl, nofun⟩, ⟨_, rfl, nofun⟩⟩

/-- A busy state; a reset and an accepted CMD write that clear OVR. -/
theorem witness_OverrunStaysUntilAccepted :
    (inFlight 1).busy = true ∧
    (∃ t, step { ready with ovr := true, turns := [.reset] } = .next t ∧ t.ovr = false) ∧
    (∃ t, step { running [w32 offCmd 2] [] with ovr := true } = .next t ∧ t.ovr = false) :=
  ⟨rfl, ⟨_, rfl, rfl⟩, ⟨_, rfl, rfl⟩⟩

/-- The offset and the width of an access are any numbers: the least and the greatest N_PIX, and
`test_bus_causes` for the boundary of each cause. -/
theorem witness_BusErrorExactlyWhen :
    Config.LegalNPix { ready with nPix := 128 }.nPix ∧ Config.LegalNPix { ready with nPix := 16384 }.nPix ∧
    0xFFFC = (Access.read 0xFFFC 4).offset.toNat ∧ 4 = (Access.read 0xFFFC 4).width := by decide

theorem witness_BusErrorLineChangesOnlyTheHost :
    (running [rd32 0x0024] []).host.line? = some (.access (.read 0x0024 4)) ∧
    (running [rd32 0x0024] []).respond (.read 0x0024 4) = .buserr := by decide +kernel

theorem witness_AccessesAreIdempotentButCmd :
    ¬((Access.write 0x4000 4 1).isWrite = true ∧ (Access.write 0x4000 4 1).offset.toNat = 0x0000) ∧
    ready.busy = false := by decide

theorem witness_BusyAcceptsTwoAccesses :
    (inFlight 1).busy = true ∧ Access.read 0x0020 4 ≠ .read 0x0004 4 ∧
    ∀ v : Word, Access.read 0x0020 4 ≠ .write 0x0000 4 v := ⟨rfl, by decide, nofun⟩

/-- BUSY = 0 and BUSY = 1, which the accesses' statements start from. -/
theorem witness_CmdWriteAcceptsOrDiscards : ready.busy = false ∧ (inFlight 1).busy = true := by decide

theorem witness_ReservedBitsReadZero :
    ready.busy = false ∧ (inFlight 1).respond (.read 0x0004 4) = .data 0x3 ∧
    ready.respond (.read 0x0020 4) = .data 0x400 := by decide +kernel

theorem witness_CfgReadsNPix :
    Config.LegalNPix ready.nPix ∧ ready.busy = false ∧ ∃ t, step ready = .next t :=
  ⟨by decide, rfl, _, rfl⟩

theorem witness_ResultRegistersReadBack : ready.busy = false := rfl

/-- The first and the last byte, and the last word, of the pixel memory. -/
theorem witness_PixelMemoryIsLittleEndian :
    ready.busy = false ∧ Config.LegalNPix ready.nPix ∧
    (0 % 4 = 0 ∧ 0 < 3 * ready.nPix ∧ (0x4000#16).toNat = 0x4000 + 0) ∧
    (3068 % 4 = 0 ∧ 3068 < 3 * ready.nPix ∧ (0x4BFC#16).toNat = 0x4000 + 3068) ∧
    (3071 % 1 = 0 ∧ 3071 < 3 * ready.nPix ∧ (0x4BFF#16).toNat = 0x4000 + 3071) := by decide

theorem witness_PixelWriteChangesOnlyItsBytes :
    ∃ t, ready.busy = false ∧ Config.LegalNPix ready.nPix ∧ 3070 % 2 = 0 ∧ 3070 < 3 * ready.nPix ∧
      (0x4BFE#16).toNat = 0x4000 + 3070 ∧ t = ready.afterAccess (.write 0x4BFE 2 0xABCD) :=
  ⟨_, by decide, by decide, by decide, by decide, by decide, rfl⟩

/-- The last pixel of the memory. -/
theorem witness_PixelIsThreeBytes :
    ready.busy = false ∧ Config.LegalNPix ready.nPix ∧ 1023 < ready.nPix ∧
    (0x4BFD#16).toNat = 0x4000 + 3 * 1023 ∧ (0x4BFE#16).toNat = 0x4000 + 3 * 1023 + 1 ∧
    (0x4BFF#16).toNat = 0x4000 + 3 * 1023 + 2 := by decide

/-- The first word of YB0 and the last word of CR. -/
theorem witness_BuffersReadAtTheirOffsets :
    ready.busy = false ∧
    ((0x0400#16).toNat = 0x0400 + 0x100 * 0 + 4 * 0 ∧ 0 < 64 ∧
      [ready.bufs.yb0, ready.bufs.yb1, ready.bufs.yb2, ready.bufs.yb3, ready.bufs.cb,
        ready.bufs.cr][0]? = some (flat 7) ∧ (flat 7)[0]? = some 7) ∧
    ((0x09FC#16).toNat = 0x0400 + 0x100 * 5 + 4 * 63 ∧ 63 < 64 ∧
      [ready.bufs.yb0, ready.bufs.yb1, ready.bufs.yb2, ready.bufs.yb3, ready.bufs.cb,
        ready.bufs.cr][5]? = some (flat 7) ∧ (flat 7)[63]? = some 7) :=
  ⟨rfl, ⟨by decide, by decide, rfl, by decide +kernel⟩, ⟨by decide, by decide, rfl, by decide +kernel⟩⟩

/-- The first entry of T_YR and the last entry of T_CrB, with TV = 1, TV = 0 and BUSY = 1. -/
theorem witness_TablesReadAtTheirOffsets :
    ((0x2000#16).toNat = 0x2000 + 0x400 * 0 + 4 * 0 ∧ 0 < 256 ∧
      [ready.tables.yr, ready.tables.yg, ready.tables.yb, ready.tables.cbR, ready.tables.cbG,
        ready.tables.cbB, ready.tables.crG, ready.tables.crB][0]? = some builtTables.yr ∧
      builtTables.yr[0]? = some 0) ∧
    ((0x3FFC#16).toNat = 0x2000 + 0x400 * 7 + 4 * 255 ∧ 255 < 256 ∧
      [ready.tables.yr, ready.tables.yg, ready.tables.yb, ready.tables.cbR, ready.tables.cbG,
        ready.tables.cbB, ready.tables.crG, ready.tables.crB][7]? = some builtTables.crB ∧
      builtTables.crB[255]? = some 0xFFEB43D1) ∧
    ready.tv = true ∧ ready.busy = false ∧ State.reset.tv = false ∧ (inFlight 1).busy = true :=
  ⟨⟨by decide, by decide, rfl, by decide +kernel⟩, ⟨by decide, by decide, rfl, by decide +kernel⟩,
    rfl, rfl, rfl, rfl⟩

/-- A busy state, which `BusyHostTurnChangesOnlyOvr` and `AcceptedCommandCompletes` start from too. -/
theorem witness_CompletionIgnoresHostTurns :
    { inFlight 1 with turns := [.host, .host, .engine, .reset] }.busy = true ∧
    { inFlight 1 with turns := [.host, .host, .engine, .reset] }.turns =
      List.replicate 2 .host ++ .engine :: [.reset] := by decide

theorem witness_HostIssuedCommandRuns :
    (running [w32 offCmd 0x16] [.host, .engine]).busy = false ∧
    (running [w32 offCmd 0x16] [.host, .engine]).host.line? =
      some (.access (.write 0x0000 4 (encode (.cvt420 .lower)))) ∧
    (running [w32 offCmd 0x16] [.host, .engine]).turns = .host :: .engine :: [] := by decide

theorem witness_WaitPollsUntilIdle :
    (running [rd32 offStatus, .bnz 1 0] [.host, .host]).turns = .host :: .host :: [] ∧
    (running [rd32 offStatus, .bnz 1 0] [.host, .host]).host.script[0]? =
      some (.access (.read 0x0004 4)) ∧
    (running [rd32 offStatus, .bnz 1 0] [.host, .host]).host.script[0 + 1]? =
      some (.bnz 0x1 0) := by decide

/-- `ready` with v = 0x12 and a host about to branch on `mask`. -/
def branching (mask : Word) : State :=
  { ready with host := ⟨[.bnz mask 0], 0, 0x12, []⟩, turns := [.host] }

/-- A read line, a branch whose mask shares bit 4 with v, and one whose mask shares no bit. -/
theorem witness_BranchTestsLastReadValue :
    ((running [rd32 offCfg] [.host]).turns = .host :: [] ∧
      (running [rd32 offCfg] [.host]).host.line? = some (.access (.read 0x0020 4)) ∧
      (running [rd32 offCfg] [.host]).respond (.read 0x0020 4) = .data 0x400) ∧
    ((branching 0x30).turns = .host :: [] ∧ (branching 0x30).host.line? = some (.bnz 0x30 0) ∧
      (branching 0x30).host.v.getLsbD 4 = true ∧ (0x30#32).getLsbD 4 = true) ∧
    ((branching 0x0D).turns = .host :: [] ∧ (branching 0x0D).host.line? = some (.bnz 0x0D 0) ∧
      ∀ k, (branching 0x0D).host.v.getLsbD k = true → (0x0D#32).getLsbD k = false) := by
  refine ⟨⟨rfl, rfl, by decide +kernel⟩, ⟨rfl, rfl, rfl, rfl⟩, rfl, rfl, fun k hk => ?_⟩
  have hlt : k < 32 := BitVec.lt_of_getLsbD hk
  have all : ∀ k < 32, (0x12#32).getLsbD k = true → (0x0D#32).getLsbD k = false := by decide
  exact all k hlt hk

/-- Each pseudo-instruction with lines before and after it. -/
theorem witness_PseudoInstructionsExpand :
    ∀ x ∈ [Src.cmd .pxy, .setpix 255 0 0, .setgeom 0 65535, .wait],
      WellFormed.script ([.label 5, .setgeom 0 8] ++ x :: [.bnz 2 5]) = true := by decide

/-- A write, a read and a branch, with the label before the branch and after it. -/
theorem witness_BranchesGoToTheirLabels :
    (∀ x ∈ [Src.write 1 0x4000 0xFF, .read 4 0x0004, .bnz 2 5],
      WellFormed.script ([.setgeom 0 8, .label 5] ++ x :: [.wait]) = true) ∧
    [.setgeom 0 8, .label 5] ++ Src.bnz 2 5 :: [.wait] =
      [.setgeom 0 8] ++ .label 5 :: [.bnz 2 5, .wait] ∧
    WellFormed.script ([] ++ Src.bnz 2 5 :: [.wait, .label 5]) = true ∧
    [] ++ Src.bnz 2 5 :: [.wait, .label 5] = [.bnz 2 5, .wait] ++ .label 5 :: [] :=
  ⟨by decide, rfl, by decide, rfl⟩

/-- Its hypothesis is met by the script of `test_wf_script`, which has a label, a WAIT and a branch. -/
theorem witness_AssembledBranchesStayInTheScript :
    WellFormed.script [.label 5, .setpix 255 0 0, .cmd .pxy, .wait, .bnz 2 5] = true ∧
    (assemble [.label 5, .setpix 255 0 0, .cmd .pxy, .wait, .bnz 2 5]).map List.getLast? =
      some (some (.bnz 2 0)) := by decide

theorem witness_ResetClearsTheRegisters : { inFlight 5 with turns := [.reset, .host] }.turns =
    .reset :: [.host] := rfl

theorem witness_ResetMeetsTheInvariant : Config.LegalNPix 128 ∧ Config.LegalNPix 16384 := by decide

/-- The state after BUILD meets the invariant and has a next state. -/
theorem witness_EveryStepKeepsTheInvariant : ready.Inv ∧ ∃ t, step ready = .next t :=
  ⟨⟨by decide, rfl, by simp [ready, Memory.Inside], fun _ => rfl, Nat.zero_le _, Nat.zero_le _,
    Nat.zero_le _⟩, _, rfl⟩

end Sys2Proof.Tests
end

section
/-!
PROOFS. The control registers (spec/10_state.md): what each register's write puts where, what its
read returns, and that N_PIX is a constant.
-/

namespace Sys2Proof.Machine

/-! ## Fields of a word -/

/-- A field of a word, in the arithmetic that the statements use. -/
theorem extractLsb'_eq_ofNat_div (v : Word) (i n : Nat) :
    v.extractLsb' i n = BitVec.ofNat n (v.toNat / 2 ^ i) := by
  rw [BitVec.extractLsb', Nat.shiftRight_eq_div_pow]

/-- Keeping the low n bits of a word is masking the bits above them. -/
theorem setWidth_extractLsb'_zero (v : Word) {n : Nat} (hn : n ≤ 32) :
    (v.extractLsb' 0 n).setWidth 32 = v &&& BitVec.ofNat 32 (2 ^ n - 1) := by
  have hpow : 2 ^ n ≤ 2 ^ 32 := Nat.pow_le_pow_right (by decide) hn
  have hmask : (2 ^ n - 1) % 2 ^ 32 = 2 ^ n - 1 :=
    Nat.mod_eq_of_lt (by have := Nat.two_pow_pos n; omega)
  have hlow : v.toNat % 2 ^ n % 2 ^ 32 = v.toNat % 2 ^ n :=
    Nat.mod_eq_of_lt ((Nat.mod_le ..).trans_lt v.isLt)
  apply BitVec.eq_of_toNat_eq
  rw [BitVec.toNat_setWidth, BitVec.extractLsb'_toNat, Nat.shiftRight_zero, hlow, BitVec.toNat_and,
    BitVec.toNat_ofNat, hmask, Nat.and_two_pow_sub_one_eq_mod]

/-- The value of two fields side by side. -/
theorem toNat_append_eq_add {m n : Nat} (x : BitVec m) (y : BitVec n) :
    (x ++ y).toNat = x.toNat * 2 ^ n + y.toNat := by
  rw [BitVec.toNat_append, ← Nat.shiftLeft_add_eq_or_of_lt y.isLt, Nat.shiftLeft_eq]

/-- PIXIN reads as its three bytes, R the lowest (spec/10_state.md R29). -/
theorem pixinWord_eq_sum (s : State) :
    s.pixinWord =
      BitVec.ofNat 32 (s.pixin.r.toNat + 2 ^ 8 * s.pixin.g.toNat + 2 ^ 16 * s.pixin.b.toNat) := by
  rw [State.pixinWord, ← BitVec.ofNat_toNat, toNat_append_eq_add, toNat_append_eq_add]
  congr 1
  omega

/-- PIXIN holds bits [23:0] of the word last written to it (spec/10_state.md R32). -/
theorem pixinWord_setPixin (s : State) (v : Word) :
    (s.setPixin v).pixinWord = v &&& 0x00FFFFFF#32 := by
  have hfields : v.extractLsb' 16 8 ++ v.extractLsb' 8 8 ++ v.extractLsb' 0 8 =
      v.extractLsb' 0 24 := by
    rw [BitVec.extractLsb'_append_extractLsb'_eq_extractLsb' (show 16 = 8 + 8 from rfl),
      BitVec.extractLsb'_append_extractLsb'_eq_extractLsb' (show 8 = 0 + 8 from rfl)]
  rw [State.pixinWord, State.setPixin_pixin, hfields]
  exact setWidth_extractLsb'_zero v (by decide)

/-- The reserved bits of STATUS, [31:8] and [3], are 0 (spec/10_state.md R25). -/
theorem statusWord_and_reserved (s : State) : s.statusWord &&& 0xFFFFFF08#32 = 0 := by
  have hmask : 0xFFFFFF08#32 = 0xFFFFFF#24 ++ 0#4 ++ 1#1 ++ 0#1 ++ 0#1 ++ 0#1 := rfl
  rw [State.statusWord, hmask]
  iterate 5 rw [BitVec.and_append]
  simp only [BitVec.zero_and, BitVec.and_zero]
  rfl

/-- The reserved bits of CFG, [31:16], are 0 (spec/10_state.md R30). -/
theorem readReg_cfg_and_reserved (s : State) : s.readReg .cfg &&& 0xFFFF0000#32 = 0 := by
  have hread : s.readReg .cfg = 0#16 ++ BitVec.ofNat 16 s.nPix :=
    BitVec.setWidth_eq_append (by decide)
  have hmask : 0xFFFF0000#32 = 0xFFFF#16 ++ 0#16 := rfl
  rw [hread, hmask, BitVec.and_append, BitVec.zero_and, BitVec.and_zero]
  rfl

/-! ## Reads and writes of one register -/

/-- While BUSY = 1 a read of a control register other than STATUS is refused
(spec/20_memory.md R80). -/
theorem respond_reg_read_busy {s : State} {o : Offset} (hb : s.busy = true)
    (ho : o.toNat < 0x0024) (hr : regOfWord (o.toNat / 4) ≠ .status) :
    s.respond (.read o 4) = .buserr := by
  have hp : s.placeAt (.read o 4) = .reg (regOfWord (o.toNat / 4)) := placeOf_reg ho
  rw [respond_eq_buserr_iff, busCause_eq_none_iff, hp]
  rintro ⟨-, -, -, -, -, hacc⟩
  have := hacc hb
  generalize regOfWord (o.toNat / 4) = r at hr this
  cases r with
  | status => exact hr rfl
  | _ => cases this

theorem writeCmd_idle {s : State} (v : Word) (hb : s.busy = false) : s.writeCmd v = s.accept v := by
  simp [State.writeCmd, hb]

theorem writeCmd_busy {s : State} (v : Word) (hb : s.busy = true) : s.writeCmd v = s.overrun := by
  simp [State.writeCmd, hb]

theorem afterAccess_pixBase_write {s : State} (v : Word) (hb : s.busy = false) :
    s.afterAccess (.write 0x0008 4 v) = s.setPixBase v :=
  afterAccess_reg_write v hb (by decide) (by decide) rfl

theorem afterAccess_pixStride_write {s : State} (v : Word) (hb : s.busy = false) :
    s.afterAccess (.write 0x000C 4 v) = s.setPixStride v :=
  afterAccess_reg_write v hb (by decide) (by decide) rfl

theorem afterAccess_pixin_write {s : State} (v : Word) (hb : s.busy = false) :
    s.afterAccess (.write 0x0010 4 v) = s.setPixin v :=
  afterAccess_reg_write v hb (by decide) (by decide) rfl

theorem respond_cmd_read {s : State} (hb : s.busy = false) :
    s.respond (.read 0x0000 4) = .data 0 :=
  respond_reg_read hb (by decide) (by decide)

theorem respond_pixBase_read {s : State} (hb : s.busy = false) :
    s.respond (.read 0x0008 4) = .data (s.pixBase.setWidth 32) :=
  respond_reg_read hb (by decide) (by decide)

theorem respond_pixStride_read {s : State} (hb : s.busy = false) :
    s.respond (.read 0x000C 4) = .data (s.pixStride.setWidth 32) :=
  respond_reg_read hb (by decide) (by decide)

theorem respond_pixin_read {s : State} (hb : s.busy = false) :
    s.respond (.read 0x0010 4) = .data s.pixinWord :=
  respond_reg_read hb (by decide) (by decide)

theorem respond_cfg_read {s : State} (hb : s.busy = false) :
    s.respond (.read 0x0020 4) = .data (s.readReg .cfg) :=
  respond_reg_read hb (by decide) (by decide)

/-- With a legal N_PIX, which needs 15 bits, CFG reads as N_PIX (spec/10_state.md R30). -/
theorem readReg_cfg_toNat {s : State} (hn : Config.LegalNPix s.nPix) :
    (s.readReg .cfg).toNat = s.nPix := by
  obtain ⟨-, -, hmax⟩ := hn
  have h16 : s.nPix % 2 ^ 16 = s.nPix := Nat.mod_eq_of_lt (by omega)
  have h32 : s.nPix % 2 ^ 32 = s.nPix := Nat.mod_eq_of_lt (by omega)
  rw [State.readReg, BitVec.toNat_setWidth, BitVec.toNat_ofNat, h16, h32]

/-! ## N_PIX is a constant -/

@[simp] theorem afterAccess_nPix (s : State) (x : Access) : (s.afterAccess x).nPix = s.nPix := by
  rcases afterAccess_cases s x with h | ⟨v, -, -, h⟩ | ⟨v, -, -, h⟩ | ⟨v, -, h⟩ | ⟨v, -, h⟩ |
    ⟨v, -, h⟩ | ⟨a, w, v, -, -, h⟩ <;> rw [h] <;> rfl

@[simp] theorem hostTurn_nPix (s : State) : s.hostTurn.nPix = s.nPix := by
  rcases hostTurn_cases s with ⟨-, h⟩ | ⟨m, t, -, h⟩ | ⟨x, -, h⟩
  · rw [h]
  · rw [h, State.setHost_nPix]
  · rw [h, State.setHost_nPix, afterAccess_nPix]

@[simp] theorem commandEffect_nPix (i : Instr) (s : State) :
    (commandEffect i s).nPix = s.nPix := by
  cases i <;> rfl

/-- A completion keeps N_PIX, whether the command performs its operation or raises a code. -/
theorem exec_nPix {i : Instr} {s t : State} (h : exec i s = .next t) : t.nPix = s.nPix := by
  rcases exec_cases i s with ⟨he, -⟩ | ⟨c, -, -, -, -, he⟩
  · cases he.symm.trans h
    rw [State.complete_nPix, commandEffect_nPix]
  · cases he.symm.trans h
    rw [State.complete_nPix]

theorem engineTurn_nPix {s t : State} (h : engineTurn s = .next t) : t.nPix = s.nPix := by
  rcases engineTurn_cases s with ⟨-, he⟩ | ⟨i, -, -, he⟩ | ⟨e, -, -, he⟩
  · cases he.symm.trans h
    rfl
  · exact exec_nPix (he.symm.trans h)
  · cases he.symm.trans h
    rw [State.complete_nPix]

/-- A step of any agent keeps N_PIX. -/
theorem step_nPix {s t : State} (h : step s = .next t) : t.nPix = s.nPix := by
  obtain ⟨ts, ⟨hs, -⟩ | ⟨hs, -⟩ | ⟨hs, -⟩⟩ := step_cases s
  · cases hs.symm.trans h
    rw [hostTurn_nPix, State.setTurns_nPix]
  · rw [engineTurn_nPix (hs.symm.trans h), State.setTurns_nPix]
  · cases hs.symm.trans h
    rw [State.resetEvent, State.resetWith_nPix, State.setTurns_nPix]

/-! ## The obligations -/

/-- A write of an operand register stores the implemented bits and changes nothing else. -/
theorem operand_writes {s : State} (v : Word) (hb : s.busy = false) :
    s.afterAccess (.write 0x0008 4 v) = { s with pixBase := BitVec.ofNat 16 v.toNat } ∧
    s.afterAccess (.write 0x000C 4 v) = { s with pixStride := BitVec.ofNat 16 v.toNat } ∧
    s.afterAccess (.write 0x0010 4 v) = { s with
      pixin := ⟨BitVec.ofNat 8 v.toNat, BitVec.ofNat 8 (v.toNat / 2 ^ 8),
        BitVec.ofNat 8 (v.toNat / 2 ^ 16)⟩ } := by
  rw [afterAccess_pixBase_write v hb, afterAccess_pixStride_write v hb,
    afterAccess_pixin_write v hb]
  simp [State.setPixBase, State.setPixStride, State.setPixin, extractLsb'_eq_ofNat_div]

/-- Settles O38: a register's write keeps only the fields, and its read returns them alone. -/
theorem reservedBitsReadZero : Obligations.ReservedBitsReadZero := by
  unfold Obligations.ReservedBitsReadZero
  refine ⟨fun s v hb => operand_writes v hb, fun s hb => ⟨?_, ?_, ?_⟩,
    fun s v hb => ⟨?_, ?_, ?_⟩, fun s v => ⟨fun hread => ?_, fun hread => ?_⟩⟩
  · rw [respond_pixBase_read hb, BitVec.ofNat_toNat]
  · rw [respond_pixStride_read hb, BitVec.ofNat_toNat]
  · rw [respond_pixin_read hb, pixinWord_eq_sum]
  · rw [afterAccess_pixBase_write v hb, respond_pixBase_read (s := s.setPixBase v) hb]
    exact congrArg Response.data (setWidth_extractLsb'_zero v (by decide))
  · rw [afterAccess_pixStride_write v hb, respond_pixStride_read (s := s.setPixStride v) hb]
    exact congrArg Response.data (setWidth_extractLsb'_zero v (by decide))
  · rw [afterAccess_pixin_write v hb, respond_pixin_read (s := s.setPixin v) hb, pixinWord_setPixin]
  · cases (respond_status s).symm.trans hread
    exact statusWord_and_reserved s
  · cases hb : s.busy with
    | false =>
      cases (respond_cfg_read hb).symm.trans hread
      exact readReg_cfg_and_reserved s
    | true => cases (respond_reg_read_busy hb (by decide) (by decide)).symm.trans hread

/-- Settles O40: CFG returns N_PIX, and no agent's step writes it. -/
theorem cfgReadsNPix : Obligations.CfgReadsNPix := by
  unfold Obligations.CfgReadsNPix
  exact ⟨fun s hn hb => ⟨_, respond_cfg_read hb, readReg_cfg_toNat hn⟩, fun _ _ => step_nPix⟩

/-- Settles O37, from what a write of CMD does and what a read of it returns while BUSY = 0 and
while BUSY = 1. -/
theorem cmdWriteAcceptsOrDiscards : Obligations.CmdWriteAcceptsOrDiscards := by
  unfold Obligations.CmdWriteAcceptsOrDiscards
  intro s v
  refine ⟨respond_write (busCause_cmd_write s v), fun hb => ?_, fun hb => ?_, ?_⟩
  · rw [afterAccess_cmd_write, writeCmd_idle v hb, State.accept]
  · rw [afterAccess_cmd_write, writeCmd_busy v hb, State.overrun]
  · cases hb : s.busy with
    | false => exact respond_cmd_read hb
    | true => exact respond_reg_read_busy hb (by decide) (by decide)

end Sys2Proof.Machine
end

section
/-!
PROOFS. The memory map (spec/20_memory.md): the offset that an accepted access names, the accesses
that the core accepts while BUSY = 1, repeated accesses, the bytes of a pixel and the lookup tables.
-/

namespace Sys2Proof.Machine

/-! ## The offset of an accepted access -/

/-- A refused access changes nothing (spec/20_memory.md R62). -/
theorem afterAccess_of_buserr {s : State} {x : Access} (h : s.respond x = .buserr) :
    s.afterAccess x = s := by
  obtain ⟨c, hc⟩ := Option.ne_none_iff_exists'.mp ((respond_eq_buserr_iff s x).mp h)
  exact afterAccess_of_refused hc

/-- The window's regions, each with what it names (spec/20_memory.md R61). -/
theorem placeOf_cases (n a : Nat) :
    (a < 0x0024 ∧ placeOf n a = .reg (regOfWord (a / 4))) ∨
    (∃ k m, placeOf n a = .buffer k m) ∨
    (∃ t i, placeOf n a = .table t i) ∨
    (0x4000 ≤ a ∧ placeOf n a = .pixels (a - 0x4000)) ∨
    placeOf n a = .reserved := by
  by_cases hreg : a < 0x0024
  · exact .inl ⟨hreg, placeOf_reg hreg⟩
  by_cases hbuf : 0x0400 ≤ a ∧ a < 0x0A00
  · exact .inr (.inl ⟨_, _, placeOf_buffer hbuf.1 hbuf.2⟩)
  by_cases htab : 0x2000 ≤ a ∧ a < 0x4000
  · exact .inr (.inr (.inl ⟨_, _, placeOf_table htab.1 htab.2⟩))
  by_cases hpix : 0x4000 ≤ a ∧ a < 0x4000 + 3 * n
  · exact .inr (.inr (.inr (.inl ⟨hpix.1, placeOf_pixels hpix.1 hpix.2⟩)))
  · exact .inr (.inr (.inr (.inr (placeOf_reserved (by omega)))))

/-- An accepted access of a control register is a word access at the register's own offset
(spec/10_state.md R23). -/
theorem accepted_reg {s : State} {x : Access} {r : Reg} (hc : s.busCause x = none)
    (hp : s.placeAt x = .reg r) :
    x.width = 4 ∧ ∃ k < 9, x.offset.toNat = 4 * k ∧ regOfWord k = r := by
  obtain ⟨ha, -, hword, -⟩ := (busCause_eq_none_iff s x).mp hc
  have hw : x.width = 4 := hword (by rw [hp]; rfl)
  have hmod : x.offset.toNat % 4 = 0 := by simpa [Access.aligned, hw] using ha
  rcases placeOf_cases s.nPix x.offset.toNat with ⟨hlt, h⟩ | ⟨_, _, h⟩ | ⟨_, _, h⟩ | ⟨-, h⟩ | h <;>
    cases h.symm.trans hp
  exact ⟨hw, x.offset.toNat / 4, by omega, by omega, rfl⟩

/-- The place of byte p of the pixel memory is offset 0x4000 + p (spec/20_memory.md R66). -/
theorem offset_of_placeAt_pixels {s : State} {x : Access} {p : Nat}
    (hp : s.placeAt x = .pixels p) : x.offset.toNat = 0x4000 + p := by
  have hplace : placeOf s.nPix x.offset.toNat = .pixels p := hp
  obtain ⟨hge, hpos⟩ : 0x4000 ≤ x.offset.toNat ∧ p = x.offset.toNat - 0x4000 := by
    simpa [hplace] using placeOf_cases s.nPix x.offset.toNat
  omega

/-- The aligned width-4 read of STATUS is at offset 4. -/
theorem eq_status_read {s : State} {o : Offset} {w : Nat} (hc : s.busCause (.read o w) = none)
    (hp : s.placeAt (.read o w) = .reg .status) : Access.read o w = .read 0x0004 4 := by
  obtain ⟨hw, k, hk, ho, hr⟩ := accepted_reg hc hp
  have hk1 : ∀ k < 9, regOfWord k = .status → k = 1 := by decide
  obtain rfl := hk1 k hk hr
  have ho4 : o = 0x0004 := BitVec.eq_of_toNat_eq ho
  rw [ho4, show w = 4 from hw]

/-! ## While BUSY = 1 -/

/-- The two accesses of spec/20_memory.md R80, by what they name. -/
theorem acceptedWhileBusy_iff (p : Place) (wr : Bool) :
    p.acceptedWhileBusy wr = true ↔
      (p = .reg .status ∧ wr = false) ∨ (p = .reg .cmd ∧ wr = true) := by
  cases p with
  | reg r => cases r <;> simp [Place.acceptedWhileBusy]
  | _ => simp [Place.acceptedWhileBusy]

/-- While BUSY = 1 an accepted access is a read of STATUS or a write of CMD
(spec/20_memory.md R80). -/
theorem eq_of_accepted_busy {s : State} {x : Access} (hb : s.busy = true)
    (hc : s.busCause x = none) : x = .read 0x0004 4 ∨ ∃ v, x = .write 0x0000 4 v := by
  obtain ⟨-, -, -, -, -, hacc⟩ := (busCause_eq_none_iff s x).mp hc
  rcases (acceptedWhileBusy_iff _ _).mp (hacc hb) with ⟨hp, hx⟩ | ⟨hp, hx⟩
  · cases x with
    | read o w => exact .inl (eq_status_read hc hp)
    | write o w v => cases hx
  · cases x with
    | read o w => cases hx
    | write o w v => exact .inr ⟨v, eq_cmd_write hc hp⟩

/-- Settles O36: the core answers a read of STATUS and takes a write of CMD, and an accepted access
is one of the two. -/
theorem busyAcceptsTwoAccesses : Obligations.BusyAcceptsTwoAccesses := by
  unfold Obligations.BusyAcceptsTwoAccesses
  intro s hb
  refine ⟨respond_status s, fun v => ⟨respond_write (busCause_cmd_write s v), ?_⟩,
    fun x hread hwrite => ?_⟩
  · rw [afterAccess_cmd_write, writeCmd_busy v hb, State.overrun]
  · have hbus : s.respond x = .buserr := by
      rw [respond_eq_buserr_iff]
      intro hc
      rcases eq_of_accepted_busy hb hc with h | ⟨v, h⟩
      · exact hread h
      · exact hwrite v h
    exact ⟨hbus, afterAccess_of_buserr hbus⟩

/-! ## Repeating an access -/

/-- Writing the byte that a memory lists changes nothing. -/
theorem Memory.set_eq_self {m : Memory} {a : Nat} {b : Byte} (h : m.get? a = some b) :
    m.set a b = m := by
  induction m with
  | nil => cases h
  | cons c rest ih =>
    obtain ⟨k, v⟩ := c
    unfold Memory.get? at h
    unfold Memory.set
    split at h
    · rename_i hk
      cases h
      simp [hk]
    · split at h
      · cases h
      · rename_i hne hlt
        simp [hne, hlt, ih h]

/-- Writing the bytes that a memory lists changes nothing. -/
theorem Memory.write_eq_self {m : Memory} {a n v : Nat}
    (h : ∀ k < n, m.get? (a + k) = some (BitVec.ofNat 8 (v / 256 ^ k))) :
    m.write a n v = m := by
  induction n generalizing a v with
  | zero => rfl
  | succ n ih =>
    have hfirst : m.set a (BitVec.ofNat 8 v) = m :=
      Memory.set_eq_self (by simpa using h 0 (by omega))
    rw [Memory.write_succ, hfirst]
    refine ih fun k hk => ?_
    rw [Nat.add_assoc, Nat.add_comm 1 k, h (k + 1) (by omega), Nat.div_div_eq_div_mul, pow_succ']

/-- A write of the pixel memory, repeated, stores the same bytes (spec/20_memory.md R71). -/
theorem memWrite_memWrite (s : State) (a n v : Nat) :
    (s.memWrite a n v).memWrite a n v = s.memWrite a n v :=
  congrArg (fun m => s.setPixMem m)
    (Memory.write_eq_self fun _ hk => Memory.get?_write_of_inside s.pixMem a v hk)

section writePlace

variable {p : Place} (s : State) (w : Nat) (v : Word) (hp : p ≠ .reg .cmd)
include hp

/-- A write of anything but CMD leaves N_PIX, TV and BUSY alone. -/
theorem writePlace_keeps_bus :
    (s.writePlace w v p).nPix = s.nPix ∧ (s.writePlace w v p).tv = s.tv ∧
      (s.writePlace w v p).busy = s.busy := by
  cases p with
  | reg r =>
    cases r with
    | cmd => exact absurd rfl hp
    | _ => exact ⟨rfl, rfl, rfl⟩
  | _ => exact ⟨rfl, rfl, rfl⟩

/-- A write of anything but CMD, repeated, changes nothing more (spec/20_memory.md R71). -/
theorem writePlace_writePlace :
    (s.writePlace w v p).writePlace w v p = s.writePlace w v p := by
  cases p with
  | reg r =>
    cases r with
    | cmd => exact absurd rfl hp
    | _ => rfl
  | pixels a => exact memWrite_memWrite s a w v.toNat
  | _ => rfl

end writePlace

/-- Whether an access is refused depends on N_PIX, TV and BUSY alone (spec/60_exceptions.md R216). -/
theorem busCause_congr {s t : State} (x : Access)
    (h : t.nPix = s.nPix ∧ t.tv = s.tv ∧ t.busy = s.busy) : t.busCause x = s.busCause x := by
  obtain ⟨hn, ht, hb⟩ := h
  have hp : t.placeAt x = s.placeAt x := by rw [State.placeAt, hn, State.placeAt]
  have hm : t.mapped x = s.mapped x := by rw [State.mapped, hp, hn, State.mapped]
  rw [State.busCause, hp, hm, ht, hb, State.busCause]

/-- An access other than a write of CMD, repeated at once, changes nothing more and gets the same
response (spec/20_memory.md R71). -/
theorem access_idempotent (s : State) (x : Access)
    (hx : ¬(x.isWrite = true ∧ x.offset.toNat = 0x0000)) :
    (s.afterAccess x).afterAccess x = s.afterAccess x ∧
      (s.afterAccess x).respond x = s.respond x := by
  cases hc : s.busCause x with
  | some c => rw [afterAccess_of_refused hc]; exact ⟨afterAccess_of_refused hc, rfl⟩
  | none =>
    cases x with
    | read a w => simp
    | write a w v =>
      have hp : s.placeAt (.write a w v) ≠ .reg .cmd := fun h =>
        hx ⟨rfl, by rw [eq_cmd_write hc h]; rfl⟩
      rw [afterAccess_write hc]
      generalize hq : s.placeAt (.write a w v) = p at hp
      have hkeep := writePlace_keeps_bus s w v hp
      have hc' := (busCause_congr (.write a w v) hkeep).trans hc
      have hq' : (s.writePlace w v p).placeAt (.write a w v) = p := by
        rw [State.placeAt, hkeep.1, ← hq, State.placeAt]
      exact ⟨by rw [afterAccess_write hc', hq', writePlace_writePlace s w v hp],
        by rw [respond_write hc', respond_write hc]⟩

/-- The control registers that accept a write are words 0, 2, 3 and 4 of the window
(spec/10_state.md R23). -/
theorem writable_reg_iff : ∀ k < 9,
    Place.readOnly (.reg (regOfWord k)) = false ↔ k = 0 ∨ k = 2 ∨ k = 3 ∨ k = 4 := by decide

/-- What a write can do, with the offset at which it does it: nothing, or store to the place at its
offset (spec/20_memory.md R71). -/
theorem afterAccess_write_cases (s : State) (a : Offset) (w : Nat) (d : Word) :
    s.afterAccess (.write a w d) = s ∨
    (a.toNat = 0x0000 ∧ s.afterAccess (.write a w d) = s.writeCmd d) ∨
    (a.toNat = 0x0008 ∧ s.afterAccess (.write a w d) = s.setPixBase d) ∨
    (a.toNat = 0x000C ∧ s.afterAccess (.write a w d) = s.setPixStride d) ∨
    (a.toNat = 0x0010 ∧ s.afterAccess (.write a w d) = s.setPixin d) ∨
    ∃ p, a.toNat = 0x4000 + p ∧ s.afterAccess (.write a w d) = s.memWrite p w d.toNat := by
  cases hc : s.busCause (.write a w d) with
  | some c => exact .inl (afterAccess_of_refused hc)
  | none =>
    obtain ⟨-, -, -, hro, -⟩ := (busCause_eq_none_iff _ _).mp hc
    have hwritable : (s.placeAt (.write a w d)).readOnly = false := hro rfl
    rw [afterAccess_write hc]
    cases hp : s.placeAt (.write a w d) with
    | reg r =>
      obtain ⟨-, k, hk, ha, rfl⟩ := accepted_reg hc hp
      rw [hp, writable_reg_iff k hk] at hwritable
      rcases hwritable with rfl | rfl | rfl | rfl
      · exact .inr (.inl ⟨ha, rfl⟩)
      · exact .inr (.inr (.inl ⟨ha, rfl⟩))
      · exact .inr (.inr (.inr (.inl ⟨ha, rfl⟩)))
      · exact .inr (.inr (.inr (.inr (.inl ⟨ha, rfl⟩))))
    | pixels p =>
      exact .inr (.inr (.inr (.inr (.inr ⟨p, offset_of_placeAt_pixels hp, rfl⟩))))
    | _ => exact .inl rfl

/-- A write other than of CMD changes at most the register at its offset, or the w bytes of the
pixel memory from its offset on (spec/20_memory.md R71). -/
theorem write_changes_only_its_place {s t : State} {a : Offset} {w : Nat} {d : Word}
    (h : t = s.afterAccess (.write a w d)) :
    (a.toNat = 0x0008 → t = { s with pixBase := t.pixBase }) ∧
    (a.toNat = 0x000C → t = { s with pixStride := t.pixStride }) ∧
    (a.toNat = 0x0010 → t = { s with pixin := t.pixin }) ∧
    (0x4000 ≤ a.toNat → t = { s with pixMem := t.pixMem } ∧
      ∀ x, 0x4000 + x < a.toNat ∨ a.toNat + w ≤ 0x4000 + x →
        t.byte? x = s.byte? x ∧ t.byteAt x = s.byteAt x) ∧
    (a.toNat ∉ [0x0000, 0x0008, 0x000C, 0x0010] → a.toNat < 0x4000 → t = s) := by
  simp only [List.mem_cons, List.not_mem_nil, or_false, not_or]
  rcases afterAccess_write_cases s a w d with
    ht | ⟨ha, ht⟩ | ⟨ha, ht⟩ | ⟨ha, ht⟩ | ⟨ha, ht⟩ | ⟨p, ha, ht⟩ <;> cases h.trans ht
  · exact ⟨fun _ => rfl, fun _ => rfl, fun _ => rfl, fun _ => ⟨rfl, fun _ _ => ⟨rfl, rfl⟩⟩,
      fun _ _ => rfl⟩
  · exact ⟨by omega, by omega, by omega, by omega, by omega⟩
  · exact ⟨fun _ => rfl, by omega, by omega, by omega, by omega⟩
  · exact ⟨by omega, fun _ => rfl, by omega, by omega, by omega⟩
  · exact ⟨by omega, by omega, fun _ => rfl, by omega, by omega⟩
  · refine ⟨by omega, by omega, by omega, fun _ => ⟨rfl, fun x hx => ?_⟩, by omega⟩
    have hout : x < p ∨ p + w ≤ x := by omega
    exact ⟨State.memWrite_byte?_of_outside s _ hout, State.memWrite_byteAt_of_outside s _ hout⟩

/-- Settles O35: a write stores to its place, and stores the same the second time; only an accepted
write of CMD, repeated, does something else, and sets OVR. -/
theorem accessesAreIdempotentButCmd : Obligations.AccessesAreIdempotentButCmd := by
  unfold Obligations.AccessesAreIdempotentButCmd
  refine ⟨afterAccess_read, fun s t a w d => write_changes_only_its_place, access_idempotent,
    fun s v hb heq => ?_⟩
  rw [afterAccess_cmd_write, afterAccess_cmd_write, writeCmd_idle v hb,
    writeCmd_busy v (State.accept_busy s v)] at heq
  cases congrArg State.ovr heq

/-! ## The bytes of a pixel -/

/-- A byte write inside the pixel memory while BUSY = 0 stores the byte, and leaves N_PIX, BUSY and
every other byte alone (spec/20_memory.md R66). -/
theorem byte_write {s t : State} {p : Nat} {o : Offset} {b : Byte} (hb : s.busy = false)
    (hn : Config.LegalNPix s.nPix) (hp : p < 3 * s.nPix) (ho : o.toNat = 0x4000 + p)
    (ht : t = s.afterAccess (.write o 1 (b.setWidth 32))) :
    t.busy = false ∧ t.nPix = s.nPix ∧ t.byte? p = some b ∧ ∀ x, x ≠ p → t.byte? x = s.byte? x := by
  obtain ⟨hplace, hc⟩ := pixels_accepted (x := .write o 1 (b.setWidth 32)) hb hn (.inl rfl)
    (Nat.mod_one p) hp ho
  have hval : (b.setWidth 32).toNat = b.toNat := BitVec.toNat_setWidth_of_le (by decide)
  rw [afterAccess_write hc, hplace, State.writePlace, hval] at ht
  subst ht
  refine ⟨hb, rfl, ?_, fun x hx => s.memWrite_byte?_of_outside _ (by omega)⟩
  simpa using s.memWrite_byte?_of_inside (k := 0) p b.toNat Nat.zero_lt_one

/-- Settles O44: each of the three writes stores its own byte, and no other pixel has one of them. -/
theorem pixelIsThreeBytes : Obligations.PixelIsThreeBytes := by
  unfold Obligations.PixelIsThreeBytes
  intro s t u v p o1 o2 o3 r g b hb hn hp h1 h2 h3 ht hu hv
  obtain ⟨htb, htn, htr, ht⟩ := byte_write hb hn (by omega) h1 ht
  obtain ⟨hub, hun, hug, hu⟩ := byte_write (p := 3 * p + 1) htb (htn ▸ hn) (by omega) h2 hu
  obtain ⟨-, -, hvb, hv⟩ := byte_write (p := 3 * p + 2) hub (hun ▸ htn ▸ hn) (by omega) h3 hv
  constructor
  · rw [State.pixel?_eq_some_iff]
    exact ⟨by rw [hv _ (by omega), hu _ (by omega), htr], by rw [hv _ (by omega), hug], hvb⟩
  · intro q hq
    refine State.pixel?_congr fun k hk => ?_
    rw [hv _ (by omega), hu _ (by omega), ht _ (by omega)]

/-! ## The lookup tables -/

/-- Entry i of lookup table t is at 0x2000 + 0x400·t + 4·i (spec/20_memory.md R70). -/
theorem placeAt_table (s : State) (x : Access) {t i : Nat}
    (ho : x.offset.toNat = 0x2000 + 0x400 * t + 4 * i) (ht : t < 8) (hi : i < 256) :
    s.placeAt x = .table (tableOfNumber t) ⟨i, hi⟩ := by
  have hnum : (x.offset.toNat - 0x2000) / 0x400 = t := by omega
  have hentry : x.offset.toNat % 0x400 / 4 = i := by omega
  rw [State.placeAt, placeOf_table (by omega) (by omega)]
  simp only [hnum, hentry]

/-- The lookup tables in the order of spec/20_memory.md R70. -/
theorem get_tableOfNumber {ts : Tables} {t : Nat} {x : Table}
    (h : [ts.yr, ts.yg, ts.yb, ts.cbR, ts.cbG, ts.cbB, ts.crG, ts.crB][t]? = some x) :
    t < 8 ∧ ts.get (tableOfNumber t) = x := by
  obtain ⟨ht, hx⟩ := List.getElem?_eq_some_iff.mp h
  change t < 8 at ht
  refine ⟨ht, hx ▸ ?_⟩
  interval_cases t <;> rfl

section tableAccess

variable {s : State} {o : Offset} {k : TableId} {n : Fin 256}

/-- A word read of a lookup-table entry while TV = 1 and BUSY = 0. -/
theorem respond_table_read (hp : s.placeAt (.read o 4) = .table k n) (ha : o.toNat % 4 = 0)
    (htv : s.tv = true) (hb : s.busy = false) :
    s.respond (.read o 4) = .data (s.tables.get k)[n.val] := by
  rw [respond_read, hp]
  · rfl
  rw [busCause_eq_none_iff, State.mapped, hp]
  exact ⟨by simp [Access.aligned, Access.width, Access.offset, ha], rfl, fun _ => rfl, nofun,
    fun _ _ => htv, fun h => by rw [hb] at h; cases h⟩

/-- A read of a lookup table is refused while TV = 0 and while BUSY = 1. -/
theorem respond_table_read_refused (hp : s.placeAt (.read o 4) = .table k n)
    (h : s.tv = false ∨ s.busy = true) : s.respond (.read o 4) = .buserr := by
  rw [respond_eq_buserr_iff, busCause_eq_none_iff, hp]
  rintro ⟨-, -, -, -, htable, hbusy⟩
  rcases h with htv | hb
  · cases htv.symm.trans (htable rfl rfl)
  · cases hbusy hb

/-- A write of a lookup table is refused in every state. -/
theorem respond_table_write {d : Word} (hp : s.placeAt (.write o 4 d) = .table k n) :
    s.respond (.write o 4 d) = .buserr := by
  rw [respond_eq_buserr_iff, busCause_eq_none_iff, hp]
  rintro ⟨-, -, -, hro, -⟩
  cases hro rfl

end tableAccess

/-- Settles O46: the offset names entry i of table t, and a lookup table accepts only a read while
TV = 1 and BUSY = 0. -/
theorem tablesReadAtTheirOffsets : Obligations.TablesReadAtTheirOffsets := by
  unfold Obligations.TablesReadAtTheirOffsets
  intro s t i o x v ho hi hx hv
  obtain ⟨ht, hget⟩ := get_tableOfNumber hx
  obtain ⟨_, hentry⟩ := Vector.getElem?_eq_some_iff.mp hv
  have hread : s.placeAt (.read o 4) = .table (tableOfNumber t) ⟨i, hi⟩ :=
    placeAt_table s (.read o 4) ho ht hi
  refine ⟨fun htv hb => ?_, fun htv => respond_table_read_refused hread (.inl htv),
    fun hb => respond_table_read_refused hread (.inr hb),
    fun d => respond_table_write (placeAt_table s (.write o 4 d) ho ht hi)⟩
  rw [respond_table_read hread (by omega) htv hb]
  simp only [hget, hentry]

end Sys2Proof.Machine
end

section
/-!
PROOFS. The encoding (spec/30_encoding.md): the words that decode to a command, and where the lines
of a host script's source line stand in the assembled script.
-/

namespace Sys2Proof

/-! ## Command words -/

/-- The decoder reads a command back from its word (spec/30_encoding.md R103). -/
@[simp] theorem decode_encode (i : Instr) : decode (encode i) = .ok i := by
  cases i with
  | cvt420 h => exact Laws.RoundTrip.cvt420 h
  | _ => rfl

/-- A word that decodes to a command is made of that command's fields (spec/30_encoding.md R100). -/
theorem eq_encode_of_decode {w : Word} {i : Instr} (h : decode w = .ok i) : w = encode i := by
  suffices hf : rsvField w = 0#27 ∧ hField w = hOf i ∧ opField w = opOf i by
    obtain ⟨hr, hh, ho⟩ := hf
    rw [← fields_append w, hr, hh, ho, encode]
  unfold decode at h
  split_ifs at h with hr ho hh
  · cases h
    exact ⟨not_not.mp hr, (bitOfHalf_halfOfBit _).symm, ho⟩
  · obtain ⟨hop, hzero⟩ := decodeOp_ok h
    exact ⟨not_not.mp hr, (not_not.mp hh).trans hzero.symm, hop⟩

/-- A word decodes to a command exactly when it is the word of some command. -/
theorem decodes_iff_exists_encode (w : Word) :
    (∃ i, decode w = .ok i) ↔ ∃ i, w = encode i :=
  exists_congr fun i => ⟨eq_encode_of_decode, fun h => h ▸ decode_encode i⟩

/-- A word is rejected exactly when it decodes to no command. -/
theorem rejected_iff_not_decodes (w : Word) :
    (∃ e, decode w = .error e) ↔ ¬∃ i, decode w = .ok i := by
  cases decode w <;> simp

/-- The command words are 0x00 to 0x06 and 0x16 (spec/30_encoding.md R101). -/
theorem exists_encode_iff_mem (w : Word) :
    (∃ i, w = encode i) ↔
      w ∈ [0x00000000#32, 0x00000001#32, 0x00000002#32, 0x00000003#32, 0x00000004#32,
        0x00000005#32, 0x00000006#32, 0x00000016#32] := by
  constructor
  · rintro ⟨i, rfl⟩
    cases i with
    | cvt420 h => cases h <;> decide
    | _ => decide
  · simp only [List.mem_cons, List.not_mem_nil, or_false]
    rintro (rfl | rfl | rfl | rfl | rfl | rfl | rfl | rfl)
    exacts [⟨.nop, rfl⟩, ⟨.build, rfl⟩, ⟨.pxy, rfl⟩, ⟨.pxc, rfl⟩, ⟨.pxycc, rfl⟩, ⟨.cvt444, rfl⟩,
      ⟨.cvt420 .upper, rfl⟩, ⟨.cvt420 .lower, rfl⟩]

/-- Settles O3: the legal words are the commands' encodings, and the arithmetic of the fields says
that a word is none of them. -/
theorem legalWordsAreExactlyEight : Obligations.LegalWordsAreExactlyEight := by
  unfold Obligations.LegalWordsAreExactlyEight
  intro w
  have legal := (decodes_iff_exists_encode w).trans (exists_encode_iff_mem w)
  refine ⟨legal, ?_⟩
  rw [rejected_iff_not_decodes, legal]
  simp only [List.mem_cons, List.not_mem_nil, or_false, ← BitVec.toNat_inj, BitVec.reduceToNat]
  omega

end Sys2Proof

namespace Sys2Proof.Machine

/-! ## The lines of a script -/

@[simp] theorem Src.length_expand (x : Src) (prog : List Src) (n : Nat) :
    (x.expand prog n).length = x.size := by
  cases x <;> rfl

@[simp] theorem length_assembleFrom (prog xs : List Src) (n : Nat) :
    (assembleFrom prog xs n).length = scriptSize xs := by
  induction xs generalizing n with
  | nil => rfl
  | cons x xs ih => simp [assembleFrom, scriptSize, ih]

/-- The lines of the first part of a script come first, and those of the rest are numbered after
them. -/
theorem assembleFrom_append (prog xs ys : List Src) (n : Nat) :
    assembleFrom prog (xs ++ ys) n =
      assembleFrom prog xs n ++ assembleFrom prog ys (n + scriptSize xs) := by
  induction xs generalizing n with
  | nil => rfl
  | cons x xs ih => simp [assembleFrom, scriptSize, ih, Nat.add_assoc]

/-- The expansion of a source line stands after the lines of what stands before it. -/
theorem assemble_around {pre post : List Src} {x : Src}
    (h : WellFormed.script (pre ++ x :: post) = true) :
    ∃ before after, assemble (pre ++ x :: post) =
        some (before ++ x.expand (pre ++ x :: post) (scriptSize pre) ++ after) ∧
      before.length = scriptSize pre := by
  let prog := pre ++ x :: post
  refine ⟨assembleFrom prog pre 0, assembleFrom prog post (scriptSize pre + x.size), ?_,
    length_assembleFrom prog pre 0⟩
  rw [assemble, if_pos h, assembleFrom_append, assembleFrom, Nat.zero_add, List.append_assoc]

/-- Shifting a number and then narrowing it to n bits is shifting the narrowed number. -/
theorem ofNat_shiftLeft (n a k : Nat) : BitVec.ofNat n (a <<< k) = BitVec.ofNat n a <<< k := by
  apply BitVec.eq_of_toNat_eq
  rw [BitVec.toNat_shiftLeft, BitVec.toNat_ofNat, BitVec.toNat_ofNat, Nat.shiftLeft_eq,
    Nat.shiftLeft_eq, Nat.mod_mul_mod]

/-- The word of SETPIX is its three shifted operands, joined (spec/30_encoding.md R108). -/
theorem setpixWord_eq_or (r g b : Nat) :
    setpixWord r g b =
      BitVec.ofNat 32 b <<< 16 ||| BitVec.ofNat 32 g <<< 8 ||| BitVec.ofNat 32 r := by
  rw [setpixWord, BitVec.ofNat_or, BitVec.ofNat_or, ofNat_shiftLeft, ofNat_shiftLeft]

/-- The command words of CVT420 hold the half in bit 4 (spec/30_encoding.md R108). -/
theorem encode_cvt420 (h : Half) :
    encode (.cvt420 h) = 0x00000006#32 ||| BitVec.ofNat 32 h.toNat <<< 4 := by
  cases h <;> rfl

/-- Settles O53: the expansions are those of the assembler, which puts them after the lines of what
stands before them. -/
theorem pseudoInstructionsExpand : Obligations.PseudoInstructionsExpand := by
  unfold Obligations.PseudoInstructionsExpand
  refine ⟨rfl, rfl, rfl, rfl, rfl, rfl, encode_cvt420, fun pre post x E hwf hE => ?_⟩
  have hexp : x.expand (pre ++ x :: post) (scriptSize pre) = E := by
    rcases hE with ⟨i, rfl, rfl⟩ | ⟨r, g, b, rfl, rfl⟩ | ⟨base, stride, rfl, rfl⟩ | ⟨rfl, rfl⟩
    · rfl
    · rw [← setpixWord_eq_or]; rfl
    · rfl
    · rfl
  obtain ⟨before, after, hlines, hlen⟩ := assemble_around hwf
  exact ⟨before, after, hexp ▸ hlines, hlen, hexp ▸ x.length_expand _ _⟩

end Sys2Proof.Machine
end

section
/-!
PROOFS. The Table Builder (spec/40_table_builder.md): the coefficient constants, the state and the
table entries that BUILD leaves, and the conversion of grey pixels over its tables.
-/

namespace Sys2Proof.Machine

/-- Settles O10: each constant and each rounded product evaluates to the integer of the table in
spec/40_table_builder.md R131. -/
theorem coefficientsAreRoundedProducts : Obligations.CoefficientsAreRoundedProducts := by
  unfold Obligations.CoefficientsAreRoundedProducts
  decide

/-! ## The completion of BUILD -/

/-- BUILD completes in every state (spec/40_table_builder.md R130). -/
theorem exec_build (s : State) :
    exec .build s = .next ((s.setTables builtTables).complete .ok) := rfl

theorem eq_of_exec_build {s t : State} (h : exec .build s = .next t) :
    t = (s.setTables builtTables).complete .ok := by
  cases (exec_build s).symm.trans h
  rfl

theorem tables_of_exec_build {s t : State} (h : exec .build s = .next t) :
    t.tables = builtTables := by
  rw [eq_of_exec_build h, State.complete_tables, State.setTables_tables]

theorem tv_of_exec_build {s t : State} (h : exec .build s = .next t) : t.tv = true := by
  rw [eq_of_exec_build h, State.complete_tv, State.setTables_tv]

/-- Settles O8: the entries are those of the built tables, in the form the statement lists them. -/
theorem buildFillsTheTables : Obligations.BuildFillsTheTables := by
  unfold Obligations.BuildFillsTheTables
  exact ⟨Laws.RoundTrip.build, fun s => ⟨_, exec_build s, rfl, fun i =>
    ⟨entry_yr i, entry_yg i, entry_yb i, (entry_cbR i).trans (neg_mul ..),
      (entry_cbG i).trans (neg_mul ..), (entry_cbB i).trans (by omega),
      (entry_crG i).trans (neg_mul ..), (entry_crB i).trans (neg_mul ..)⟩⟩⟩

/-- Settles O11: each entry is linear in its index, which is at most 255, so the entries lie between
those of 0 and 255. -/
theorem tableEntryRanges : Obligations.TableEntryRanges := by
  unfold Obligations.TableEntryRanges
  intro s t h
  simp only [tables_of_exec_build h, entry_yr, entry_yg, entry_yb, entry_cbR, entry_cbG, entry_cbB,
    entry_crG, entry_crB]
  constructor
  · intro i
    have hi : i.toNat < 256 := i.isLt
    omega
  · decide

/-! ## Grey pixels -/

/-- A conversion of one pixel with TV = 1 has its effect (spec/60_exceptions.md R218). -/
theorem convertPixel_built {s : State} (u : State) (h : s.tv = true) :
    s.convertPixel u = .next (u.complete .ok) := by
  simp [State.convertPixel, h, State.succeed]

/-- PXYCC after BUILD leaves the conversion of PIXIN over the built tables
(spec/41_pixel_converter.md R157). -/
theorem exec_pxycc_after_build {s t : State} (h : exec .build s = .next t) (p : Pixel) :
    ∃ u, exec .pxycc { t with pixin := p } = .next u ∧ u.resY = builtTables.yOf p ∧
      u.resCb = builtTables.cbOf p ∧ u.resCr = builtTables.crOf p := by
  have htv : t.tv = true := tv_of_exec_build h
  rw [← tables_of_exec_build h]
  exact ⟨_, convertPixel_built (s := { t with pixin := p }) _ htv, rfl, rfl, rfl⟩

section grey

variable (i : Byte)

/-- The luma coefficients sum to 65536, so the luma of grey i is i
(spec/40_table_builder.md R139). -/
theorem yOf_grey : (builtTables.yOf ⟨i, i, i⟩).toNat = i.toNat := by
  have hacc : builtTables.accY ⟨i, i, i⟩ = 65536 * i.toNat + 32768 := by
    simp only [accY_built]
    omega
  have hy := yOf_built ⟨i, i, i⟩
  rw [hacc] at hy
  omega

/-- The Cb coefficients cancel, so the Cb of grey is 128 (spec/40_table_builder.md R139). -/
theorem cbOf_grey : (builtTables.cbOf ⟨i, i, i⟩).toNat = 128 := by
  have hacc : builtTables.accCb ⟨i, i, i⟩ = 8421375 := by simp only [accCb_built]; omega
  have hcb := cbOf_built ⟨i, i, i⟩
  rw [hacc] at hcb
  omega

/-- The Cr coefficients cancel, so the Cr of grey is 128 (spec/40_table_builder.md R139). -/
theorem crOf_grey : (builtTables.crOf ⟨i, i, i⟩).toNat = 128 := by
  have hacc : builtTables.accCr ⟨i, i, i⟩ = 8421375 := by simp only [accCr_built]; omega
  have hcr := crOf_built ⟨i, i, i⟩
  rw [hacc] at hcr
  omega

end grey

/-- Settles O17: PXYCC leaves the three samples of the grey over the built tables. -/
theorem greyPixelsConvertToThemselves : Obligations.GreyPixelsConvertToThemselves := by
  unfold Obligations.GreyPixelsConvertToThemselves
  refine ⟨rfl, rfl, rfl, fun s t h i => ?_⟩
  obtain ⟨u, hu, hy, hcb, hcr⟩ := exec_pxycc_after_build h ⟨i, i, i⟩
  exact ⟨u, hu, hy ▸ yOf_grey i, hcb ▸ cbOf_grey i, hcr ▸ crOf_grey i⟩

end Sys2Proof.Machine
end

section
/-!
PROOFS. The Pixel Converter (spec/41_pixel_converter.md): the closed forms of the three samples over
the built tables, and the ranges of the accumulators and of the samples with their ends.
-/

namespace Sys2Proof.Machine

section built

variable (p : Pixel)

/-! ## The closed forms -/

/-- spec/41_pixel_converter.md R152. -/
theorem yOf_closedForm :
    ((builtTables.yOf p).toNat : Int) =
      (19595 * (p.r.toNat : Int) + 38470 * p.g.toNat + 7471 * p.b.toNat + 32768) / 65536 := by
  rw [yOf_built, accY_built, ← add_assoc]

/-- spec/41_pixel_converter.md R153. -/
theorem cbOf_closedForm :
    ((builtTables.cbOf p).toNat : Int) =
      (-11058 * (p.r.toNat : Int) - 21710 * p.g.toNat + 32768 * p.b.toNat + 8421375) / 65536 := by
  have hacc : builtTables.accCb p =
      -11058 * (p.r.toNat : Int) - 21710 * p.g.toNat + 32768 * p.b.toNat + 8421375 := by
    rw [accCb_built]
    omega
  rw [cbOf_built, hacc]

/-- spec/41_pixel_converter.md R154. -/
theorem crOf_closedForm :
    ((builtTables.crOf p).toNat : Int) =
      (32768 * (p.r.toNat : Int) - 27439 * p.g.toNat - 5329 * p.b.toNat + 8421375) / 65536 := by
  have hacc : builtTables.accCr p =
      32768 * (p.r.toNat : Int) - 27439 * p.g.toNat - 5329 * p.b.toNat + 8421375 := by
    rw [accCr_built]
    omega
  rw [crOf_built, hacc]

/-! ## The ranges of the accumulators -/

theorem accY_range : 32768 ≤ builtTables.accY p ∧ builtTables.accY p ≤ 16744448 := by
  have := p.r.isLt; have := p.g.isLt; have := p.b.isLt
  rw [accY_built]
  omega

theorem accCb_range : 65535 ≤ builtTables.accCb p ∧ builtTables.accCb p ≤ 16777215 := by
  have := p.r.isLt; have := p.g.isLt; have := p.b.isLt
  rw [accCb_built]
  omega

theorem accCr_range : 65535 ≤ builtTables.accCr p ∧ builtTables.accCr p ≤ 16777215 := by
  have := p.r.isLt; have := p.g.isLt; have := p.b.isLt
  rw [accCr_built]
  omega

end built

section samples

variable {t : Tables} {p : Pixel} {a : Int}

/-! ## The sample of a known accumulator -/

theorem yOf_of_accY (h : t.accY p = a) : t.yOf p = sample (a >>> scaleBits) := by
  rw [Tables.yOf, h]

theorem cbOf_of_accCb (h : t.accCb p = a) : t.cbOf p = sample (a >>> scaleBits) := by
  rw [Tables.cbOf, h]

theorem crOf_of_accCr (h : t.accCr p = a) : t.crOf p = sample (a >>> scaleBits) := by
  rw [Tables.crOf, h]

end samples

/-! ## The obligations -/

/-- Settles O15: PXYCC after BUILD leaves the three samples of PIXIN over the built tables, which
have the closed forms. -/
theorem conversionClosedForms : Obligations.ConversionClosedForms := by
  unfold Obligations.ConversionClosedForms
  intro s t h p
  obtain ⟨u, hu, hy, hcb, hcr⟩ := exec_pxycc_after_build h p
  exact ⟨u, hu, hy ▸ yOf_closedForm p, hcb ▸ cbOf_closedForm p, hcr ▸ crOf_closedForm p⟩

/-- Settles O16: each accumulator is linear in the three channels, so its ends are at corners of the
cube of pixels, and the samples reach their ends where the accumulators do. -/
theorem conversionRanges : Obligations.ConversionRanges := by
  unfold Obligations.ConversionRanges
  have yMin : builtTables.accY ⟨0, 0, 0⟩ = 32768 := (accY_built _).trans (by decide)
  have yMax : builtTables.accY ⟨255, 255, 255⟩ = 16744448 := (accY_built _).trans (by decide)
  have cbMin : builtTables.accCb ⟨255, 255, 0⟩ = 65535 := (accCb_built _).trans (by decide)
  have cbMax : builtTables.accCb ⟨0, 0, 255⟩ = 16777215 := (accCb_built _).trans (by decide)
  have crMin : builtTables.accCr ⟨0, 255, 255⟩ = 65535 := (accCr_built _).trans (by decide)
  have crMax : builtTables.accCr ⟨255, 0, 0⟩ = 16777215 := (accCr_built _).trans (by decide)
  exact ⟨fun p => ⟨accY_range p, accCb_range p, accCr_range p, yOf_inRange p, cbOf_inRange p,
      crOf_inRange p⟩, yMin, yMax, cbMin, cbMax, crMin, crMax,
    yOf_of_accY yMin, yOf_of_accY yMax, cbOf_of_accCb cbMin, cbOf_of_accCb cbMax,
    crOf_of_accCr crMin, crOf_of_accCr crMax⟩

end Sys2Proof.Machine
end

section
/-!
PROOFS. The Subsampled Block Converter (spec/43_subsampled.md): the words that CVT420 writes and those
that it keeps, and the two commands of a macroblock in either order.
-/

namespace Sys2Proof

/-- The two halves are numbered 0 and 1 (spec/30_encoding.md R102). -/
theorem Half.toNat_lt (h : Half) : h.toNat < 2 := by cases h <;> decide

theorem Half.exists_toNat_eq {n : Nat} (hn : n < 2) : ∃ h : Half, h.toNat = n := by
  obtain rfl | rfl : n = 0 ∨ n = 1 := by omega
  · exact ⟨.upper, rfl⟩
  · exact ⟨.lower, rfl⟩

/-- Two different halves are the upper and the lower, in one order or the other. -/
theorem Half.cases_of_ne {h h' : Half} (hne : h ≠ h') :
    (h = .upper ∧ h' = .lower) ∨ (h = .lower ∧ h' = .upper) := by
  cases h <;> cases h' <;> simp at hne ⊢

end Sys2Proof

namespace Sys2Proof.Machine

/-! ## The words of one command -/

section words

variable {s : State} {h h' : Half} {k r c j q n : Nat} {f : Pixel → Word} {p : Pixel}

/-- CVT420 on a region inside the pixel memory writes its samples (spec/43_subsampled.md R181). -/
theorem exec_cvt420_inside (htv : s.tv = true)
    (hb : s.pixBase.toNat + 7 * s.pixStride.toNat + 15 < s.nPix) :
    exec (.cvt420 h) s = .next ((s.setBufs (s.subsampledBuffers h)).complete .ok) :=
  convertBlock_inside _ htv (by omega)

/-- Column c of a written row is in the left luma block when c < 8 and else in the right one
(spec/43_subsampled.md R182). -/
theorem lumaBlock_getElem? (hr : r < 8) (hp : s.blockPixel? r c = some p) :
    (s.lumaBlock k (8 * (c / 8)))[8 * r + c % 8]? = some (s.tables.yOf p) := by
  have hrow : (8 * r + c % 8) / 8 = r := by omega
  have hcol : (8 * r + c % 8) % 8 + 8 * (c / 8) = c := by omega
  rw [Vector.getElem?_eq_getElem (by omega), State.lumaBlock, tabulateBuffer_getElem]
  simp only [hrow, hcol, hp, sampleFor_some]

/-- Row pair j and column q give word 8·(4h + j) + q (spec/43_subsampled.md R184, R186). -/
theorem chromaRows_getElem? {b : Buffer} (hj : j < 4) (hq : q < 8)
    (hp : s.boxPixel? j q = some p) :
    (s.chromaRows h k f b)[8 * (4 * h.toNat + j) + q]? = some (f p) := by
  have hh := h.toNat_lt
  have hrow : (8 * (4 * h.toNat + j) + q) / 8 - 4 * h.toNat = j := by omega
  have hcol : (8 * (4 * h.toNat + j) + q) % 8 = q := by omega
  rw [Vector.getElem?_eq_getElem (by omega), State.chromaRows,
    setRows_of_mem _ _ _ _ _ (by omega), hrow, hcol, hp, sampleFor_some]

/-- The other rows of a chroma buffer keep their words (spec/43_subsampled.md R188). -/
theorem chromaRows_getElem?_of_not_mem {b : Buffer} (hn : n < 64)
    (hm : ¬(32 * h.toNat ≤ n ∧ n < 32 * h.toNat + 32)) :
    (s.chromaRows h k f b)[n]? = b[n]? := by
  rw [Vector.getElem?_eq_getElem hn, Vector.getElem?_eq_getElem hn, State.chromaRows,
    setRows_of_not_mem _ _ _ _ _ hm]

/-- The luma buffers YB(2h) and YB(2h + 1) take the left and the right luma block
(spec/43_subsampled.md R181). -/
theorem subsampledBuffers_luma (hk : k < 2) :
    (s.subsampledBuffers h).get (bufOfNumber (2 * h.toNat + k)) =
      s.lumaBlock (2 * h.toNat + k) (8 * k) := by
  obtain rfl | rfl : k = 0 ∨ k = 1 := by omega
  · cases h <;> rfl
  · cases h <;> rfl

/-- The luma buffers of the other half keep their words (spec/43_subsampled.md R188). -/
theorem subsampledBuffers_luma_of_ne (hne : h ≠ h') (hk : k < 2) :
    (s.subsampledBuffers h').get (bufOfNumber (2 * h.toNat + k)) =
      s.bufs.get (bufOfNumber (2 * h.toNat + k)) := by
  obtain rfl | rfl : k = 0 ∨ k = 1 := by omega
  · rcases Half.cases_of_ne hne with ⟨rfl, rfl⟩ | ⟨rfl, rfl⟩ <;> rfl
  · rcases Half.cases_of_ne hne with ⟨rfl, rfl⟩ | ⟨rfl, rfl⟩ <;> rfl

end words

/-- The buffers are determined by the 64 words of each (spec/10_state.md R35). -/
theorem Buffers.eq_of_words {v w : Buffers}
    (hy : ∀ k n, k < 4 → n < 64 → (v.get (bufOfNumber k))[n]? = (w.get (bufOfNumber k))[n]?)
    (hc : ∀ n, n < 64 → v.cb[n]? = w.cb[n]? ∧ v.cr[n]? = w.cr[n]?) : v = w := by
  have ext : ∀ {x y : Buffer}, (∀ n, n < 64 → x[n]? = y[n]?) → x = y := fun {x y} h =>
    Vector.ext fun n hn => by simpa [hn] using h n hn
  have hluma := fun k hk => ext fun n hn => hy k n hk hn
  cases v
  cases w
  rw [Buffers.mk.injEq]
  exact ⟨hluma 0 (by decide), hluma 1 (by decide), hluma 2 (by decide), hluma 3 (by decide),
    ext fun n hn => (hc n hn).1, ext fun n hn => (hc n hn).2⟩

/-! ## A converted half -/

/-- The buffers `v` hold the conversion of the region of `s` as half h: the luma of its written
pixels in YB(2h) and YB(2h + 1), and the chroma of its written 2×2 neighbourhoods in rows 4h to
4h + 3 of CB and CR (spec/43_subsampled.md R182, R184). -/
structure HoldsHalf (s : State) (h : Half) (v : Buffers) : Prop where
  luma : ∀ r c p, r < 8 → c < 16 → s.blockPixel? r c = some p →
    (v.get (bufOfNumber (2 * h.toNat + c / 8)))[8 * r + c % 8]? = some (s.tables.yOf p)
  chroma : ∀ j q p, j < 4 → q < 8 → s.boxPixel? j q = some p →
    v.cb[8 * (4 * h.toNat + j) + q]? = some (s.tables.cbOf p) ∧
    v.cr[8 * (4 * h.toNat + j) + q]? = some (s.tables.crOf p)

/-- CVT420 h converts its region as half h. -/
theorem holdsHalf_subsampledBuffers (s : State) (h : Half) :
    HoldsHalf s h (s.subsampledBuffers h) where
  luma r c p hr hc hp := by
    rw [subsampledBuffers_luma (by omega)]
    exact lumaBlock_getElem? hr hp
  chroma j q p hj hq hp := ⟨chromaRows_getElem? hj hq hp, chromaRows_getElem? hj hq hp⟩

/-- CVT420 of the other half keeps a converted half (spec/43_subsampled.md R188). -/
theorem HoldsHalf.subsampledBuffers {s t : State} {h h' : Half} (H : HoldsHalf s h t.bufs)
    (hne : h ≠ h') : HoldsHalf s h (t.subsampledBuffers h') where
  luma r c p hr hc hp := by
    rw [subsampledBuffers_luma_of_ne hne (by omega)]
    exact H.luma r c p hr hc hp
  chroma j q p hj hq hp := by
    obtain ⟨hn, hm⟩ : 8 * (4 * h.toNat + j) + q < 64 ∧
        ¬(32 * h'.toNat ≤ 8 * (4 * h.toNat + j) + q ∧
          8 * (4 * h.toNat + j) + q < 32 * h'.toNat + 32) := by
      rcases Half.cases_of_ne hne with ⟨rfl, rfl⟩ | ⟨rfl, rfl⟩ <;> rw [Half.toNat, Half.toNat] <;>
        omega
    obtain ⟨hcb, hcr⟩ := H.chroma j q p hj hq hp
    exact ⟨(chromaRows_getElem?_of_not_mem hn hm).trans hcb,
      (chromaRows_getElem?_of_not_mem hn hm).trans hcr⟩

/-- Settles O22: CVT420 h converts its region as half h, and the averaged triple of four written
pixels is the one whose channels the statement names. -/
theorem cvt420ConvertsAveragedChroma : Obligations.Cvt420ConvertsAveragedChroma := by
  unfold Obligations.Cvt420ConvertsAveragedChroma
  intro s h htv hb
  refine ⟨_, exec_cvt420_inside htv hb, fun j q hj hq p1 p2 p3 p4 m h1 h2 h3 h4 hr hg hbl => ?_⟩
  have hbox : s.boxPixel? j q = some m :=
    averagePixel_eq hr hg hbl ▸ boxPixel?_eq_some s h1 h2 h3 h4
  exact (holdsHalf_subsampledBuffers s h).chroma j q m hj hq hbox

/-! ## The two halves of a macroblock -/

/-- The top-left pixel of half h of the macroblock at b with row stride S
(spec/43_subsampled.md R189). -/
def halfBase (b S : Nat) : Half → Nat
  | .upper => b
  | .lower => b + 8 * S

/-- The geometry of half h of the macroblock at b with row stride S. -/
def State.atHalf (s : State) (b S : Nat) (h : Half) : State := s.withGeometry (halfBase b S h) S

/-- What CVT420 h leaves on half h of the macroblock at b with row stride S. -/
def State.afterHalf (s : State) (b S : Nat) (h : Half) : State :=
  ((s.atHalf b S h).setBufs ((s.atHalf b S h).subsampledBuffers h)).complete .ok

section macroblock

variable {s : State} {b S : Nat} {h h' : Half} {v w : Buffers}

theorem halfBase_eq (b S : Nat) (h : Half) : halfBase b S h = b + 8 * h.toNat * S := by
  cases h <;> simp [halfBase, Half.toNat]

theorem halfBase_le (b S : Nat) (h : Half) : halfBase b S h ≤ b + 8 * S := by
  cases h <;> simp [halfBase]

/-- A macroblock inside the pixel memory has geometries that fit PIX_BASE and PIX_STRIDE. -/
theorem atHalf_geometry (hn : s.nPix ≤ 16384) (hb : b + 15 * S + 15 < s.nPix) :
    (s.atHalf b S h).pixBase.toNat = halfBase b S h ∧ (s.atHalf b S h).pixStride.toNat = S := by
  have hle := halfBase_le b S h
  exact ⟨Nat.mod_eq_of_lt (by omega), Nat.mod_eq_of_lt (by omega)⟩

/-- Either command of a macroblock completes, whatever the pixels hold. -/
theorem exec_atHalf (htv : s.tv = true) (hn : s.nPix ≤ 16384) (hb : b + 15 * S + 15 < s.nPix) :
    exec (.cvt420 h) (s.atHalf b S h) = .next (s.afterHalf b S h) := by
  obtain ⟨hbase, hstride⟩ := atHalf_geometry (h := h) hn hb
  have hle := halfBase_le b S h
  refine exec_cvt420_inside htv (lt_of_le_of_lt ?_ hb)
  omega

/-- Row r of half h is row 8h + r of the macroblock. -/
theorem blockPixel?_atHalf (hn : s.nPix ≤ 16384) (hb : b + 15 * S + 15 < s.nPix) (r c : Nat) :
    (s.atHalf b S h).blockPixel? r c = s.pixel? (b + (8 * h.toNat + r) * S + c) := by
  obtain ⟨hbase, hstride⟩ := atHalf_geometry (h := h) hn hb
  have hindex : (s.atHalf b S h).pixelIndex r c = b + (8 * h.toNat + r) * S + c := by
    rw [State.pixelIndex, State.base, State.stride, hbase, hstride, halfBase_eq]
    ring
  rw [State.blockPixel?, hindex]
  rfl

/-- After the commands of both halves, in whichever order, the buffers hold both halves: neither
command writes pixels, tables or the words of the other half. -/
theorem holdsHalf_afterHalf_afterHalf (hne : h ≠ h') (k : Half) :
    HoldsHalf (s.atHalf b S k) k ((s.afterHalf b S h).afterHalf b S h').bufs := by
  obtain rfl | rfl : k = h ∨ k = h' := by
    rcases Half.cases_of_ne hne with ⟨rfl, rfl⟩ | ⟨rfl, rfl⟩ <;> cases k <;> simp
  · exact (holdsHalf_subsampledBuffers (s.atHalf b S k) k).subsampledBuffers
      (t := (s.afterHalf b S k).atHalf b S h') hne
  · have H := holdsHalf_subsampledBuffers ((s.afterHalf b S h).atHalf b S k) k
    exact ⟨H.luma, H.chroma⟩

section converted

variable (hn : s.nPix ≤ 16384) (hb : b + 15 * S + 15 < s.nPix)
  (H : ∀ k, HoldsHalf (s.atHalf b S k) k v)
include hn hb H

/-- The luma of a written pixel stands in its quadrant (spec/43_subsampled.md R189). -/
theorem luma_of_halves {r c : Nat} {p : Pixel} (hr : r < 16) (hc : c < 16)
    (hp : s.pixel? (b + r * S + c) = some p) :
    (v.get (bufOfNumber (2 * (r / 8) + c / 8)))[8 * (r % 8) + c % 8]? =
      some (s.tables.yOf p) := by
  obtain ⟨h, hh⟩ := Half.exists_toNat_eq (show r / 8 < 2 by omega)
  have hpix : (s.atHalf b S h).blockPixel? (r % 8) c = some p := by
    rw [blockPixel?_atHalf hn hb, hh, Nat.div_add_mod, hp]
  rw [← hh]
  exact (H h).luma (r % 8) c p (by omega) hc hpix

/-- The chroma of a written neighbourhood stands at its row pair and column
(spec/43_subsampled.md R189). -/
theorem chroma_of_halves {j q : Nat} {p1 p2 p3 p4 : Pixel} (hj : j < 8) (hq : q < 8)
    (h1 : s.pixel? (b + 2 * j * S + 2 * q) = some p1)
    (h2 : s.pixel? (b + 2 * j * S + 2 * q + 1) = some p2)
    (h3 : s.pixel? (b + (2 * j + 1) * S + 2 * q) = some p3)
    (h4 : s.pixel? (b + (2 * j + 1) * S + 2 * q + 1) = some p4) :
    v.cb[8 * j + q]? = some (s.tables.cbOf (averagePixel p1 p2 p3 p4)) ∧
    v.cr[8 * j + q]? = some (s.tables.crOf (averagePixel p1 p2 p3 p4)) := by
  obtain ⟨h, hh⟩ := Half.exists_toNat_eq (show j / 4 < 2 by omega)
  have hrow : 8 * h.toNat + 2 * (j % 4) = 2 * j := by omega
  have hword : 4 * h.toNat + j % 4 = j := by omega
  have hbox : (s.atHalf b S h).boxPixel? (j % 4) q = some (averagePixel p1 p2 p3 p4) := by
    apply boxPixel?_eq_some <;> rw [blockPixel?_atHalf hn hb] <;>
      simpa only [← Nat.add_assoc, hrow]
  rw [← hword]
  exact (H h).chroma (j % 4) q _ (by omega) hq hbox

end converted

/-- The words of a fully written macroblock are all conversions, so they determine the buffers. -/
theorem bufs_eq_of_halves (hn : s.nPix ≤ 16384) (hb : b + 15 * S + 15 < s.nPix)
    (hv : ∀ k, HoldsHalf (s.atHalf b S k) k v) (hw : ∀ k, HoldsHalf (s.atHalf b S k) k w)
    (hall : ∀ r c, r < 16 → c < 16 → ∃ p, s.pixel? (b + r * S + c) = some p) : v = w := by
  refine Buffers.eq_of_words (fun k n hk hn64 => ?_) (fun n hn64 => ?_)
  · obtain ⟨p, hp⟩ := hall (8 * (k / 2) + n / 8) (8 * (k % 2) + n % 8) (by omega) (by omega)
    have hbuf : 2 * ((8 * (k / 2) + n / 8) / 8) + (8 * (k % 2) + n % 8) / 8 = k := by omega
    have hword : 8 * ((8 * (k / 2) + n / 8) % 8) + (8 * (k % 2) + n % 8) % 8 = n := by omega
    have hvk := luma_of_halves hn hb hv (by omega) (by omega) hp
    have hwk := luma_of_halves hn hb hw (by omega) (by omega) hp
    rw [hbuf, hword] at hvk hwk
    rw [hvk, hwk]
  · obtain ⟨p1, h1⟩ := hall (2 * (n / 8)) (2 * (n % 8)) (by omega) (by omega)
    obtain ⟨p2, h2⟩ := hall (2 * (n / 8)) (2 * (n % 8) + 1) (by omega) (by omega)
    obtain ⟨p3, h3⟩ := hall (2 * (n / 8) + 1) (2 * (n % 8)) (by omega) (by omega)
    obtain ⟨p4, h4⟩ := hall (2 * (n / 8) + 1) (2 * (n % 8) + 1) (by omega) (by omega)
    obtain ⟨hvb, hvr⟩ := chroma_of_halves hn hb hv (by omega) (by omega) h1 h2 h3 h4
    obtain ⟨hwb, hwr⟩ := chroma_of_halves hn hb hw (by omega) (by omega) h1 h2 h3 h4
    rw [Nat.div_add_mod] at hvb hvr hwb hwr
    exact ⟨hvb.trans hwb.symm, hvr.trans hwr.symm⟩

end macroblock

/-- Settles O23: in either order the buffers hold both converted halves, whose words are those of
the statement and, where all is written, all the words there are. -/
theorem macroblockHalvesInEitherOrder : Obligations.MacroblockHalvesInEitherOrder := by
  unfold Obligations.MacroblockHalvesInEitherOrder
  intro s b S htv hn _ hb
  have upperFirst := holdsHalf_afterHalf_afterHalf (s := s) (b := b) (S := S)
    (h := .upper) (h' := .lower) (by decide)
  have lowerFirst := holdsHalf_afterHalf_afterHalf (s := s) (b := b) (S := S)
    (h := .lower) (h' := .upper) (by decide)
  refine ⟨s.afterHalf b S .upper, (s.afterHalf b S .upper).afterHalf b S .lower,
    s.afterHalf b S .lower, (s.afterHalf b S .lower).afterHalf b S .upper,
    exec_atHalf htv hn hb, exec_atHalf (s := s.afterHalf b S .upper) htv hn hb,
    exec_atHalf htv hn hb, exec_atHalf (s := s.afterHalf b S .lower) htv hn hb,
    fun hall => bufs_eq_of_halves hn hb lowerFirst upperFirst fun r c hr hc =>
      Option.ne_none_iff_exists'.mp (hall r c hr hc), fun v hmem => ?_⟩
  have H : ∀ k, HoldsHalf (s.atHalf b S k) k v.bufs := by
    simp only [List.mem_cons, List.not_mem_nil, or_false] at hmem
    rcases hmem with rfl | rfl
    · exact upperFirst
    · exact lowerFirst
  refine ⟨fun r c hr hc p hp => luma_of_halves hn hb H hr hc hp,
    fun j q hj hq p1 p2 p3 p4 m h1 h2 h3 h4 hr hg hbl => ?_⟩
  rw [← averagePixel_eq hr hg hbl]
  exact chroma_of_halves hn hb H hj hq h1 h2 h3 h4

end Sys2Proof.Machine
end

section
/-!
PROOFS. The error reports (spec/60_exceptions.md): the codes that a completion leaves in ERR and what
it then changes, the overrun bit, and the causes of a BUSERR.
-/

namespace Sys2Proof.Machine

/-! ## The checks of a conversion -/

section checks

variable {s : State} {wd : Nat}

/-- While TV = 0 a conversion of one pixel raises NOTBUILT (spec/60_exceptions.md R214). -/
theorem convertPixel_notBuilt (u : State) (htv : s.tv = false) :
    s.convertPixel u = .next (s.complete .notBuilt) := by
  simp [State.convertPixel, htv, State.raise]

/-- While TV = 0 a conversion of a block raises NOTBUILT, whatever its geometry
(spec/60_exceptions.md R214, R218). -/
theorem convertBlock_notBuilt (u : State) (htv : s.tv = false) :
    s.convertBlock wd u = .next (s.complete .notBuilt) := by
  simp [State.convertBlock, htv, State.raise]

/-- The largest pixel index of a block is the last column of row 7, so a pixel at or beyond N_PIX
makes a block conversion raise BOUNDS (spec/60_exceptions.md R215). -/
theorem convertBlock_beyond {r c : Nat} (u : State) (htv : s.tv = true) (hr : r < 8) (hc : c < wd)
    (hp : s.nPix ≤ s.pixBase.toNat + r * s.pixStride.toNat + c) :
    s.convertBlock wd u = .next (s.complete .bounds) := by
  have hrow : r * s.pixStride.toNat ≤ 7 * s.pixStride.toNat := Nat.mul_le_mul_right _ (by omega)
  have hlast : ¬ s.base + 7 * s.stride + wd - 1 < s.nPix := by
    rw [State.base, State.stride]; omega
  simp [State.convertBlock, htv, State.inBounds, hlast, State.raise]

end checks

/-- Settles O25: every command but NOP and BUILD is a conversion of one pixel or of a block. -/
theorem conversionsRaiseNotBuilt : Obligations.ConversionsRaiseNotBuilt := by
  unfold Obligations.ConversionsRaiseNotBuilt
  intro s i hnop hbuild htv
  cases i with
  | nop => exact absurd rfl hnop
  | build => exact absurd rfl hbuild
  | pxy => exact convertPixel_notBuilt _ htv
  | pxc => exact convertPixel_notBuilt _ htv
  | pxycc => exact convertPixel_notBuilt _ htv
  | cvt444 => exact convertBlock_notBuilt _ htv
  | cvt420 h => exact convertBlock_notBuilt _ htv

/-- CVT444 is a conversion of a block 8 pixels wide, and CVT420 of one 16 pixels wide
(spec/20_memory.md R68). -/
theorem exec_block {i : Instr} {wd : Nat}
    (hi : (i = .cvt444 ∧ wd = 8) ∨ ((∃ h, i = .cvt420 h) ∧ wd = 16)) (s : State) :
    0 < wd ∧ exec i s = s.convertBlock wd (commandEffect i s) := by
  rcases hi with ⟨rfl, rfl⟩ | ⟨⟨h, rfl⟩, rfl⟩
  · exact ⟨by decide, rfl⟩
  · exact ⟨by decide, rfl⟩

/-- Settles O26: the check compares the largest index of the region, that of row 7 and column
wd - 1, with N_PIX. -/
theorem blocksBeyondMemoryRaiseBounds : Obligations.BlocksBeyondMemoryRaiseBounds := by
  unfold Obligations.BlocksBeyondMemoryRaiseBounds
  intro s i wd hi htv
  obtain ⟨hwd, hexec⟩ := exec_block hi s
  rw [hexec]
  refine ⟨fun ⟨r, c, hr, hc, hp⟩ => convertBlock_beyond _ htv hr hc hp, fun hall => ?_⟩
  have hlast := hall 7 (wd - 1) (by decide) (by omega)
  exact ⟨_, convertBlock_inside _ htv (by omega), State.complete_err ..⟩

/-! ## What a completion can do -/

/-- What the engine's turn leaves: nothing new while BUSY = 0, the effect of a command with OK, or
ERR and BUSY alone with another code (spec/60_exceptions.md R212, R218). -/
theorem eq_of_engineTurn {s t : State} (h : engineTurn s = .next t) :
    (s.busy = false ∧ t = s) ∨
    (∃ i, t = (commandEffect i s).complete .ok) ∨
    (∃ c, c ≠ .ok ∧ t = s.complete c) := by
  rcases engineTurn_cases s with ⟨hb, he⟩ | ⟨i, -, -, he⟩ | ⟨e, -, -, he⟩
  · cases he.symm.trans h
    exact .inl ⟨hb, rfl⟩
  · rcases exec_cases i s with ⟨hx, -⟩ | ⟨c, hc, -, -, -, hx⟩ <;>
      cases (he.trans hx).symm.trans h
    · exact .inr (.inl ⟨i, rfl⟩)
    · exact .inr (.inr ⟨c, hc, rfl⟩)
  · cases he.symm.trans h
    exact .inr (.inr ⟨.illegal, nofun, rfl⟩)

/-- Settles O27: a completion performs its operation with OK, or raises a code and changes nothing
else. -/
theorem failedCommandWritesNothing : Obligations.FailedCommandWritesNothing := by
  unfold Obligations.FailedCommandWritesNothing
  intro s t hb h herr
  rcases eq_of_engineTurn h with ⟨hidle, -⟩ | ⟨i, rfl⟩ | ⟨c, -, rfl⟩
  · cases hb.symm.trans hidle
  · exact absurd (State.complete_err ..) herr
  · rfl

/-- A step whose listed turn is the engine's (spec/70_reset_and_hazards.md R246). -/
theorem step_of_engine_listed {s : State} {ts : List Turn} (h : s.turns = .engine :: ts) :
    step s = engineTurn (s.setTurns ts) := by
  simp [step, State.nextTurn, h, turnStep]

/-- A reserved word completes with ILLEGAL (spec/60_exceptions.md R213). -/
theorem engineTurn_reserved {s : State} {e : Reject} (hb : s.busy = true)
    (hd : decode s.cur = .error e) : engineTurn s = .next (s.complete .illegal) := by
  rcases engineTurn_cases s with ⟨hidle, -⟩ | ⟨i, -, hok, -⟩ | ⟨_, -, -, h⟩
  · cases hb.symm.trans hidle
  · cases hd.symm.trans hok
  · exact h

/-- Settles O5: the engine's turn of a busy state with a reserved word in CUR. -/
theorem reservedWordCompletesWithIllegal : Obligations.ReservedWordCompletesWithIllegal := by
  unfold Obligations.ReservedWordCompletesWithIllegal
  intro s e ts hb hd hts
  rw [step_of_engine_listed hts, engineTurn_reserved (s := s.setTurns ts) hb hd]
  rfl

/-! ## The overrun bit -/

@[simp] theorem commandEffect_ovr (i : Instr) (s : State) : (commandEffect i s).ovr = s.ovr := by
  cases i <;> rfl

/-- A completion keeps OVR (spec/60_exceptions.md R217). -/
theorem engineTurn_ovr {s t : State} (h : engineTurn s = .next t) : t.ovr = s.ovr := by
  rcases eq_of_engineTurn h with ⟨-, rfl⟩ | ⟨i, rfl⟩ | ⟨c, -, rfl⟩
  · rfl
  · rw [State.complete_ovr, commandEffect_ovr]
  · rw [State.complete_ovr]

/-- An access that clears OVR is a CMD write that the core accepts (spec/60_exceptions.md R217). -/
theorem accept_of_afterAccess_clears_ovr {s : State} {x : Access} (hovr : s.ovr = true)
    (h : (s.afterAccess x).ovr = false) :
    ∃ v, x = .write 0x0000 4 v ∧ s.busy = false ∧ s.afterAccess x = s.accept v := by
  have kept : (s.afterAccess x).ovr ≠ s.ovr := by rw [h, hovr]; decide
  rcases afterAccess_cases s x with hx | ⟨v, -, -, hx⟩ | ⟨v, hw, hb, hx⟩ | ⟨v, -, hx⟩ | ⟨v, -, hx⟩ |
    ⟨v, -, hx⟩ | ⟨a, w, v, -, -, hx⟩
  · exact absurd (congrArg State.ovr hx) kept
  · rw [hx, State.overrun_ovr] at h; cases h
  · exact ⟨v, hw, hb, hx⟩
  all_goals exact absurd (congrArg State.ovr hx) kept

/-- A host line that clears OVR is a CMD write that the core accepts
(spec/60_exceptions.md R217). -/
theorem accept_of_hostTurn_clears_ovr {s : State} (hovr : s.ovr = true)
    (h : s.hostTurn.ovr = false) :
    s.busy = false ∧ s.hostTurn.busy = true ∧
      ∃ v, s.host.line? = some (.access (.write 0x0000 4 v)) ∧ s.hostTurn.cur = v := by
  rcases hostTurn_cases s with ⟨-, ht⟩ | ⟨m, n, -, ht⟩ | ⟨x, hline, ht⟩ <;> rw [ht] at h ⊢
  · cases hovr.symm.trans h
  · cases hovr.symm.trans h
  · obtain ⟨v, rfl, hb, hx⟩ := accept_of_afterAccess_clears_ovr hovr h
    rw [hx]
    exact ⟨hb, rfl, v, hline, rfl⟩

/-- Settles O32: of the three kinds of step, a completion keeps OVR, and a host line clears it only
by an accepted CMD write. -/
theorem overrunStaysUntilAccepted : Obligations.OverrunStaysUntilAccepted := by
  unfold Obligations.OverrunStaysUntilAccepted
  refine ⟨fun s v hb => ?_, fun s t h hovr hclear => ?_⟩
  · obtain ⟨-, hwrite, -⟩ := busyAcceptsTwoAccesses s hb
    exact hwrite v
  · obtain ⟨ts, ⟨hs, hn⟩ | ⟨hs, -⟩ | ⟨-, hn⟩⟩ := step_cases s
    · cases hs.symm.trans h
      exact .inr ⟨congrArg Prod.fst hn,
        accept_of_hostTurn_clears_ovr (s := s.setTurns ts) hovr hclear⟩
    · have hkept : t.ovr = s.ovr := engineTurn_ovr (s := s.setTurns ts) (hs.symm.trans h)
      cases (hkept.trans hovr).symm.trans hclear
    · exact .inl (congrArg Prod.fst hn)

/-! ## The causes of a BUSERR, region by region -/

/-- The width is 1, 2 or 4, and the offset is a multiple of it (spec/20_memory.md R64). -/
theorem aligned_iff (x : Access) :
    x.aligned = true ↔
      (x.width = 1 ∨ x.width = 2 ∨ x.width = 4) ∧ x.offset.toNat % x.width = 0 := by
  simp [Access.aligned, or_assoc]

/-- The two accesses of spec/20_memory.md R80, by the word of the window that each names. -/
theorem acceptedWhileBusy_reg_iff : ∀ k < 9, ∀ wr : Bool,
    Place.acceptedWhileBusy (.reg (regOfWord k)) wr = true ↔
      (k = 1 ∧ wr = false) ∨ (k = 0 ∧ wr = true) := by decide

section regions

variable {s : State} {x : Access}

/-- The accesses that the control registers accept (spec/10_state.md R23, spec/20_memory.md R80). -/
theorem reg_accepted_iff (h : x.offset.toNat < 0x0024) :
    s.busCause x = none ↔
      x.width = 4 ∧ x.offset.toNat % x.width = 0 ∧
      (x.isWrite = true → x.offset.toNat = 0x0000 ∨ x.offset.toNat = 0x0008 ∨
        x.offset.toNat = 0x000C ∨ x.offset.toNat = 0x0010) ∧
      (s.busy = true → (x.offset.toNat = 0x0004 ∧ x.isWrite = false) ∨
        (x.offset.toNat = 0x0000 ∧ x.isWrite = true)) := by
  have hp : s.placeAt x = .reg (regOfWord (x.offset.toNat / 4)) := placeOf_reg h
  have hk : x.offset.toNat / 4 < 9 := by omega
  rw [busCause_eq_none_iff, State.mapped, hp, aligned_iff, writable_reg_iff _ hk,
    acceptedWhileBusy_reg_iff _ hk]
  simp only [Place.wordOnly, Place.isTable]
  grind

/-- The accesses that the output buffers accept (spec/20_memory.md R69). -/
theorem buffer_accepted_iff (h : 0x0400 ≤ x.offset.toNat) (h' : x.offset.toNat < 0x0A00) :
    s.busCause x = none ↔
      x.width = 4 ∧ x.offset.toNat % x.width = 0 ∧ x.isWrite = false ∧ s.busy = false := by
  rw [busCause_eq_none_iff, State.mapped, State.placeAt, placeOf_buffer h h', aligned_iff]
  simp only [Place.wordOnly, Place.isTable, Place.readOnly, Place.acceptedWhileBusy]
  grind

/-- The accesses that the lookup tables accept (spec/20_memory.md R70). -/
theorem table_accepted_iff (h : 0x2000 ≤ x.offset.toNat) (h' : x.offset.toNat < 0x4000) :
    s.busCause x = none ↔
      x.width = 4 ∧ x.offset.toNat % x.width = 0 ∧ x.isWrite = false ∧ s.tv = true ∧
        s.busy = false := by
  rw [busCause_eq_none_iff, State.mapped, State.placeAt, placeOf_table h h', aligned_iff]
  simp only [Place.wordOnly, Place.isTable, Place.readOnly, Place.acceptedWhileBusy]
  grind

/-- The accesses that the pixel memory accepts: with a legal N_PIX an aligned one that starts inside
also ends inside (spec/20_memory.md R64, R66). -/
theorem pixels_accepted_iff (hn : Config.LegalNPix s.nPix) (h : 0x4000 ≤ x.offset.toNat)
    (h' : x.offset.toNat < 0x4000 + 3 * s.nPix) :
    s.busCause x = none ↔
      (x.width = 1 ∨ x.width = 2 ∨ x.width = 4) ∧ x.offset.toNat % x.width = 0 ∧
        s.busy = false := by
  refine ⟨fun hc => ?_, fun ⟨hw, ha, hb⟩ => ?_⟩
  · obtain ⟨halign, -, -, -, -, hacc⟩ := (busCause_eq_none_iff s x).mp hc
    rw [State.placeAt, placeOf_pixels h h'] at hacc
    obtain ⟨hw, ha⟩ := (aligned_iff x).mp halign
    exact ⟨hw, ha, Bool.eq_false_iff.mpr fun hb => by cases hacc hb⟩
  · have hmod : (x.offset.toNat - 0x4000) % x.width = 0 := by
      rcases hw with hw | hw | hw <;> rw [hw] at ha ⊢ <;> omega
    obtain ⟨-, hc⟩ := pixels_accepted hb hn hw hmod (by omega) (by omega)
    exact hc

/-- A reserved offset accepts no access (spec/20_memory.md R61). -/
theorem reserved_refused (h : (0x0024 ≤ x.offset.toNat ∧ x.offset.toNat < 0x0400) ∨
    (0x0A00 ≤ x.offset.toNat ∧ x.offset.toNat < 0x2000) ∨
    0x4000 + 3 * s.nPix ≤ x.offset.toNat) : ¬ s.busCause x = none := by
  rw [busCause_eq_none_iff, State.mapped, State.placeAt, placeOf_reserved h]
  rintro ⟨-, hm, -⟩
  cases hm

end regions

/-- Settles O33: region by region, an access is refused when it fails a condition under which the
region accepts it, and each condition excludes one of the causes that can hold there. -/
theorem busErrorExactlyWhen : Obligations.BusErrorExactlyWhen := by
  unfold Obligations.BusErrorExactlyWhen
  rintro s x a w hn rfl rfl
  refine ⟨?_, afterAccess_of_buserr⟩
  rw [respond_eq_buserr_iff]
  by_cases hres : (0x0024 ≤ x.offset.toNat ∧ x.offset.toNat < 0x0400) ∨
      (0x0A00 ≤ x.offset.toNat ∧ x.offset.toNat < 0x2000) ∨ 0x4000 + 3 * s.nPix ≤ x.offset.toNat
  · exact iff_of_true (reserved_refused hres) (.inr (.inl (by omega)))
  by_cases hreg : x.offset.toNat < 0x0024
  · rw [reg_accepted_iff hreg]
    grind
  by_cases hbuf : x.offset.toNat < 0x0A00
  · rw [buffer_accepted_iff (by omega) hbuf]
    grind
  by_cases htab : x.offset.toNat < 0x4000
  · rw [table_accepted_iff (by omega) htab]
    grind
  · rw [pixels_accepted_iff hn (by omega) (by omega)]
    grind

end Sys2Proof.Machine
end

section
/-!
PROOFS. Words and scripts (spec/30_encoding.md): decoding as the inverse of encoding, the lines that
labels name, and the targets of the assembled branches.
-/

namespace Sys2Proof

/-- Settles O2: a word that decodes is made of its command's fields, and a command's word decodes.
-/
theorem decodeInvertsEncode : Obligations.DecodeInvertsEncode := by
  unfold Obligations.DecodeInvertsEncode
  exact fun w i => ⟨eq_encode_of_decode, fun h => h ▸ decode_encode i⟩

/-- Settles O1: the legal words are the commands' encodings, and each other word fails one check of
the decoder. -/
theorem commandWordsDecode : Obligations.CommandWordsDecode := by
  unfold Obligations.CommandWordsDecode
  exact ⟨decode_encode .nop, decode_encode .build, decode_encode .pxy, decode_encode .pxc,
    decode_encode .pxycc, decode_encode .cvt444, decode_encode (.cvt420 .upper),
    decode_encode (.cvt420 .lower), rfl, rfl, rfl⟩

end Sys2Proof

namespace Sys2Proof.Machine

/-! ## Labels -/

theorem scriptSize_append (xs ys : List Src) :
    scriptSize (xs ++ ys) = scriptSize xs + scriptSize ys := by
  induction xs with
  | nil => exact (Nat.zero_add _).symm
  | cons x xs ih => rw [List.cons_append, scriptSize, scriptSize, ih, Nat.add_assoc]

theorem labels_append (xs ys : List Src) :
    WellFormed.labels (xs ++ ys) = WellFormed.labels xs ++ WellFormed.labels ys := by
  induction xs with
  | nil => rfl
  | cons x xs ih => cases x <;> simp [WellFormed.labels, ih]

/-- In a well-formed script no label is declared twice. -/
theorem not_mem_labels_before {a b : List Src} {k : Nat}
    (h : WellFormed.script (a ++ .label k :: b) = true) : k ∉ WellFormed.labels a := by
  obtain ⟨-, hnodup⟩ := Bool.and_eq_true_iff.mp h
  have hnodup := of_decide_eq_true hnodup
  rw [labels_append, WellFormed.labels] at hnodup
  obtain ⟨-, -, hdisjoint⟩ := List.nodup_append.mp hnodup
  exact fun hk => hdisjoint k hk k List.mem_cons_self rfl

/-- A label names the line after those that the source lines before it expand to
(spec/30_encoding.md R107). -/
theorem labelLine_eq {a b : List Src} {k : Nat} (hk : k ∉ WellFormed.labels a) (n : Nat) :
    labelLine k (a ++ .label k :: b) n = some (n + scriptSize a) := by
  induction a generalizing n with
  | nil => simp [labelLine, scriptSize]
  | cons x a ih =>
    cases x with
    | label l =>
      obtain ⟨hne, hk⟩ := not_or.mp (List.mem_cons.not.mp hk)
      simp [labelLine, Ne.symm hne, ih hk, scriptSize, Src.size]
    | _ => simp [labelLine, ih hk, scriptSize, Nat.add_assoc]

/-- A label names a line of the script or its end. -/
theorem labelLine_le {l : Nat} {xs : List Src} {n m : Nat} (h : labelLine l xs n = some m) :
    m ≤ n + scriptSize xs := by
  induction xs generalizing n with
  | nil => cases h
  | cons x xs ih =>
    rw [scriptSize, ← Nat.add_assoc]
    cases x with
    | label k =>
      rw [labelLine] at h
      split_ifs at h
      · cases h
        exact (Nat.le_add_right _ _).trans (Nat.le_add_right _ _)
      · exact ih h
    | _ => exact ih h

/-- Settles O54: an access line is one line as written, and the label of a branch is declared once,
where the statement says. -/
theorem branchesGoToTheirLabels : Obligations.BranchesGoToTheirLabels := by
  unfold Obligations.BranchesGoToTheirLabels
  refine ⟨fun pre post x l hwf hl => ?_, scriptSize_append, fun _ => rfl⟩
  have hexp : x.expand (pre ++ x :: post) (scriptSize pre) = [l] := by
    rcases hl with ⟨w, o, v, rfl, rfl⟩ | ⟨w, o, rfl, rfl⟩ | ⟨mask, k, a, b, rfl, hprog, rfl⟩
    · rfl
    · rfl
    · rw [hprog] at hwf ⊢
      rw [Src.expand, labelLine_eq (not_mem_labels_before hwf), Option.getD_some, Nat.zero_add]
  obtain ⟨before, after, hlines, hlen⟩ := assemble_around hwf
  refine ⟨before, after, ?_, hlen⟩
  rw [hlines, hexp, List.append_assoc, List.singleton_append]

/-! ## Branch targets -/

/-- The branch of a source line at line number n goes to a label's line, to the end of the script,
or, for WAIT, to line n (spec/30_encoding.md R108). -/
theorem target_of_mem_expand {prog : List Src} {x : Src} {n target : Nat} {mask : Word}
    (h : Line.bnz mask target ∈ x.expand prog n) : target ≤ scriptSize prog ∨ target = n := by
  cases x with
  | bnz m l =>
    simp only [Src.expand, List.mem_singleton, Line.bnz.injEq] at h
    obtain ⟨-, rfl⟩ := h
    cases hl : labelLine l prog 0 with
    | none => exact .inl le_rfl
    | some line => exact .inl (by simpa using labelLine_le hl)
  | wait =>
    simp only [Src.expand, rd32, List.mem_cons, List.not_mem_nil, or_false, reduceCtorEq, false_or,
      Line.bnz.injEq] at h
    exact .inr h.2
  | _ => simp [Src.expand, w32] at h

/-- The branches of a part of a script, from line number n on, stay inside the script. -/
theorem target_of_mem_assembleFrom {prog xs : List Src} {n target : Nat} {mask : Word}
    (hn : n + scriptSize xs ≤ scriptSize prog)
    (h : Line.bnz mask target ∈ assembleFrom prog xs n) : target ≤ scriptSize prog := by
  induction xs generalizing n with
  | nil => cases h
  | cons x xs ih =>
    rw [scriptSize, ← Nat.add_assoc] at hn
    rcases List.mem_append.mp h with h | h
    · rcases target_of_mem_expand h with h | rfl <;> omega
    · exact ih hn h

/-- Settles O55: the assembled lines are as many as the source lines expand to, and each branch
stays inside them. -/
theorem assembledBranchesStayInTheScript : Obligations.AssembledBranchesStayInTheScript := by
  unfold Obligations.AssembledBranchesStayInTheScript
  intro prog hwf
  have hlen := length_assembleFrom prog prog 0
  refine ⟨_, if_pos hwf, hlen, fun mask target h => ?_⟩
  rw [hlen]
  exact target_of_mem_assembleFrom (Nat.zero_add _).le h

end Sys2Proof.Machine
end

section
/-!
PROOFS. Completions (spec/70_reset_and_hazards.md section 3, spec/60_exceptions.md section 2): what
a completion leaves in each part of the state, and which steps change the tables, TV and ERR.
-/

namespace Sys2Proof.Machine

/-! ## What a completion does -/

/-- The parts of the state that no completion writes: the operands, CUR, OVR, N_PIX, the pixel
memory with the values of its unwritten bytes, the host and the turns to come (spec/10_state.md
R21). -/
def State.operands (s : State) :
    Word × Bool × BitVec 16 × BitVec 16 × Pixel × Nat × Memory × Nat × HostAgent × List Turn :=
  (s.cur, s.ovr, s.pixBase, s.pixStride, s.pixin, s.nPix, s.pixMem, s.epoch, s.host, s.turns)

@[simp] theorem complete_operands (c : ErrCode) (s : State) :
    (s.complete c).operands = s.operands := rfl

@[simp] theorem commandEffect_operands (i : Instr) (s : State) :
    (commandEffect i s).operands = s.operands := by cases i <;> rfl

/-- The engine's turn writes no operand. -/
theorem engineTurn_operands {s t : State} (h : engineTurn s = .next t) :
    t.operands = s.operands := by
  rcases eq_of_engineTurn h with ⟨-, rfl⟩ | ⟨i, rfl⟩ | ⟨c, -, rfl⟩ <;> simp

/-- After the engine's turn BUSY = 0 (spec/70_reset_and_hazards.md R246). -/
theorem engineTurn_busy {s t : State} (h : engineTurn s = .next t) : t.busy = false := by
  rcases eq_of_engineTurn h with ⟨hb, rfl⟩ | ⟨i, rfl⟩ | ⟨c, -, rfl⟩
  · exact hb
  · rfl
  · rfl

/-- The engine's turn does nothing while BUSY = 0 (spec/70_reset_and_hazards.md R246). -/
theorem engineTurn_idle {s : State} (hb : s.busy = false) : engineTurn s = .next s := by
  simp [engineTurn, hb]

/-- The engine's turn performs the command that CUR decodes to. -/
theorem engineTurn_decoded {s : State} {i : Instr} (hb : s.busy = true)
    (hd : decode s.cur = .ok i) : engineTurn s = exec i s := by
  simp [engineTurn, hb, State.fetchWord, hd]

/-- The engine's turn performs the command whose word CUR holds (spec/30_encoding.md R103). -/
theorem engineTurn_of_cur_eq {s : State} {i : Instr} (hb : s.busy = true) (hc : s.cur = encode i) :
    engineTurn s = exec i s :=
  engineTurn_decoded hb (hc ▸ decode_encode i)

/-- A byte of the pixel memory depends on the listed bytes and on the count of resets. -/
theorem byteAt_congr {s t : State} (hm : t.pixMem = s.pixMem) (he : t.epoch = s.epoch) (a : Nat) :
    t.byteAt a = s.byteAt a := by
  rw [State.byteAt, State.byte?, hm, he, State.byteAt, State.byte?]

/-- Settles O28: the engine's turn clears BUSY and writes no operand. -/
theorem completionsKeepTheOperands : Obligations.CompletionsKeepTheOperands := by
  unfold Obligations.CompletionsKeepTheOperands
  intro s t _ h
  have hkept := engineTurn_operands h
  simp only [State.operands, Prod.mk.injEq] at hkept
  obtain ⟨hcur, hovr, hbase, hstride, hpixin, hn, hm, he, hhost, hturns⟩ := hkept
  exact ⟨engineTurn_busy h, hcur, hovr, hbase, hstride, hpixin, hn, hm, byteAt_congr hm he, hhost,
    hturns⟩

/-- Settles O7: NOP is its word's command and has no effect. -/
theorem nopCompletesWithNoEffect : Obligations.NopCompletesWithNoEffect := by
  unfold Obligations.NopCompletesWithNoEffect
  exact ⟨Laws.RoundTrip.nop, fun _ => rfl⟩

/-- Settles O9: BUILD leaves the built tables and TV = 1, which are those of an earlier BUILD. -/
theorem repeatedBuildKeepsTables : Obligations.RepeatedBuildKeepsTables := by
  unfold Obligations.RepeatedBuildKeepsTables
  intro s s' t u ht hu
  refine ⟨(tables_of_exec_build hu).trans (tables_of_exec_build ht).symm, fun htables htv => ?_⟩
  rw [tables_of_exec_build ht] at htables
  rw [tv_of_exec_build ht] at htv
  rw [eq_of_exec_build hu, State.setTables, State.complete, ← htables, ← htv]

/-! ## The kinds of step -/

theorem step_of_host_listed {s : State} {ts : List Turn} (h : s.turns = .host :: ts) :
    step s = .next (s.setTurns ts).hostTurn := by
  simp [step, State.nextTurn, h, turnStep]

theorem step_of_reset_listed {s : State} {ts : List Turn} (h : s.turns = .reset :: ts) :
    step s = .next (s.setTurns ts).resetEvent := by
  simp [step, State.nextTurn, h, turnStep]

/-- With no turn listed the engine moves while BUSY = 1 (notes/assumptions/4.md). -/
theorem step_of_busy_unlisted {s : State} (h : s.turns = []) (hb : s.busy = true) :
    step s = engineTurn s := by
  simp [step, State.nextTurn, h, hb, turnStep]

/-- Settles O6: a host line and a reset are total, and so is the engine's turn. -/
theorem everyStepAnswersNext : Obligations.EveryStepAnswersNext := by
  unfold Obligations.EveryStepAnswersNext
  intro s
  obtain ⟨ts, ⟨hs, -⟩ | ⟨hs, -⟩ | ⟨hs, -⟩⟩ := step_cases s
  · exact ⟨_, hs⟩
  · rw [hs]
    exact engineTurn_next _
  · exact ⟨_, hs⟩

/-- Settles O4: the engine's turn is the next event in each clause, and the word of a row is the
command's own. -/
theorem engineTurnRunsDecodedCommand : Obligations.EngineTurnRunsDecodedCommand := by
  unfold Obligations.EngineTurnRunsDecodedCommand
  refine ⟨fun s i hb hd => ⟨fun hts => ?_, fun ts hts => ?_⟩, fun s i => ?_⟩
  · rw [step_of_busy_unlisted hts hb, engineTurn_decoded hb hd]
  · rw [step_of_engine_listed hts]
    exact engineTurn_decoded (s := s.setTurns ts) hb hd
  · have hword : BitVec.ofNat 32 ((encode i).toNat % 2 ^ 32) = encode i := by
      rw [Nat.mod_eq_of_lt (encode i).isLt, BitVec.ofNat_toNat, BitVec.setWidth_eq]
    rw [State.withFetchWord, hword, step_of_busy_unlisted rfl rfl]
    exact engineTurn_of_cur_eq rfl rfl

/-! ## The host's lines -/

/-- The parts of the state that no host line writes (spec/10_state.md R21, R33, R35). -/
def State.outputs (s : State) :
    Tables × Bool × Buffers × Word × Word × Word × ErrCode × Nat × List Turn :=
  (s.tables, s.tv, s.bufs, s.resY, s.resCb, s.resCr, s.err, s.nPix, s.turns)

@[simp] theorem setHost_outputs (g : HostAgent) (s : State) :
    (s.setHost g).outputs = s.outputs := rfl

@[simp] theorem afterAccess_outputs (s : State) (x : Access) :
    (s.afterAccess x).outputs = s.outputs := by
  rcases afterAccess_cases s x with h | ⟨v, -, -, h⟩ | ⟨v, -, -, h⟩ | ⟨v, -, h⟩ | ⟨v, -, h⟩ |
    ⟨v, -, h⟩ | ⟨a, w, v, -, -, h⟩ <;> rw [h] <;> rfl

theorem hostTurn_outputs (s : State) : s.hostTurn.outputs = s.outputs := by
  rcases hostTurn_cases s with ⟨-, h⟩ | ⟨m, t, -, h⟩ | ⟨x, -, h⟩ <;> simp [h]

/-- Settles O31: a host line changes no output, whatever the line is. -/
theorem hostTurnWritesNoOutput : Obligations.HostTurnWritesNoOutput := by
  unfold Obligations.HostTurnWritesNoOutput
  intro s
  have hkept := hostTurn_outputs s
  simpa only [State.outputs, Prod.mk.injEq] using hkept

/-! ## Which steps change the tables, TV and ERR -/

/-- Only BUILD writes the tables or TV (spec/10_state.md R34). -/
theorem commandEffect_tables {i : Instr} (hi : i ≠ .build) (s : State) :
    (commandEffect i s).tables = s.tables ∧ (commandEffect i s).tv = s.tv := by
  cases i with
  | build => exact absurd rfl hi
  | _ => exact ⟨rfl, rfl⟩

/-- A completion of a command other than BUILD keeps the tables and TV. -/
theorem exec_tables {i : Instr} {s t : State} (hi : i ≠ .build) (h : exec i s = .next t) :
    t.tables = s.tables ∧ t.tv = s.tv := by
  rcases exec_cases i s with ⟨he, -⟩ | ⟨c, -, -, -, -, he⟩
  · cases he.symm.trans h
    exact commandEffect_tables hi s
  · cases he.symm.trans h
    exact ⟨rfl, rfl⟩

/-- The engine's turn keeps the tables and TV, or completes the word of BUILD
(spec/10_state.md R34). -/
theorem engineTurn_tables {s t : State} (h : engineTurn s = .next t) :
    (t.tables = s.tables ∧ t.tv = s.tv) ∨
    (s.busy = true ∧ s.cur = 0x00000001#32 ∧ t.tables = builtTables ∧ t.tv = true) := by
  rcases engineTurn_cases s with ⟨-, he⟩ | ⟨i, hb, hd, he⟩ | ⟨e, -, -, he⟩
  · cases he.symm.trans h
    exact .inl ⟨rfl, rfl⟩
  · have hx : exec i s = .next t := he.symm.trans h
    by_cases hi : i = .build
    · subst hi
      exact .inr ⟨hb, eq_encode_of_decode hd, tables_of_exec_build hx, tv_of_exec_build hx⟩
    · exact .inl (exec_tables hi hx)
  · cases he.symm.trans h
    exact .inl ⟨rfl, rfl⟩

/-- Settles O29: of the three kinds of step, a host line keeps the tables and TV, and the engine's
turn changes them by BUILD only. -/
theorem onlyBuildWritesTheTables : Obligations.OnlyBuildWritesTheTables := by
  unfold Obligations.OnlyBuildWritesTheTables
  intro s t h hchange
  rw [ne_eq, ne_eq, ← not_and_or] at hchange
  obtain ⟨ts, ⟨hs, -⟩ | ⟨hs, hn⟩ | ⟨hs, hn⟩⟩ := step_cases s
  · cases hs.symm.trans h
    obtain ⟨htables, htv, -⟩ := hostTurnWritesNoOutput (s.setTurns ts)
    exact absurd ⟨htables, htv⟩ hchange
  · rcases engineTurn_tables (hs.symm.trans h) with hkept | hbuild
    · exact absurd hkept hchange
    · exact .inr ⟨congrArg Prod.fst hn, hbuild⟩
  · cases hs.symm.trans h
    exact .inl ⟨congrArg Prod.fst hn, rfl⟩

/-- Settles O30: a host line keeps ERR, and so does the engine's turn while BUSY = 0. -/
theorem errChangesOnlyAtCompletion : Obligations.ErrChangesOnlyAtCompletion := by
  unfold Obligations.ErrChangesOnlyAtCompletion
  intro s t h hchange
  obtain ⟨ts, ⟨hs, -⟩ | ⟨hs, hn⟩ | ⟨-, hn⟩⟩ := step_cases s
  · cases hs.symm.trans h
    obtain ⟨-, -, -, -, -, -, herr, -⟩ := hostTurnWritesNoOutput (s.setTurns ts)
    exact absurd herr hchange
  · have he : engineTurn (s.setTurns ts) = .next t := hs.symm.trans h
    cases hb : s.busy with
    | true => exact .inr ⟨congrArg Prod.fst hn, rfl, engineTurn_busy he⟩
    | false =>
      cases (engineTurn_idle (s := s.setTurns ts) hb).symm.trans he
      exact absurd rfl hchange
  · exact .inl (congrArg Prod.fst hn)

end Sys2Proof.Machine
end

section
/-!
PROOFS. Reset and the invariant (spec/10_state.md R40): what a reset leaves, and that each named
update, each event and so each step keeps the invariant.
-/

namespace Sys2Proof.Machine

/-! ## Reset -/

/-- After a reset STATUS is 0 (spec/10_state.md R40). -/
theorem resetEvent_statusWord (s : State) : s.resetEvent.statusWord = 0x00000000#32 := by
  rw [State.statusWord, State.resetEvent, State.resetWith_err, State.resetWith_ovr,
    State.resetWith_tv, State.resetWith_busy]
  rfl

/-- Settles O56: the reset event puts every register of the core to its reset value. -/
theorem resetClearsTheRegisters : Obligations.ResetClearsTheRegisters := by
  unfold Obligations.ResetClearsTheRegisters
  intro s ts hts
  refine ⟨_, step_of_reset_listed hts, rfl, rfl, rfl, rfl, rfl, rfl, rfl, rfl, rfl, rfl, rfl, rfl,
    ?_, rfl, rfl⟩
  rw [respond_status, resetEvent_statusWord]

/-- The state after a reset meets the invariant: it lists no byte, has TV = 0 and results of 0. -/
theorem resetWith_inv {n : Nat} (hn : Config.LegalNPix n) (e : Nat) (g : HostAgent)
    (ts : List Turn) : (State.resetWith n e g ts).Inv where
  nPix := hn
  memory := rfl
  inside := nofun
  tables := nofun
  resY := Nat.zero_le _
  resCb := Nat.zero_le _
  resCr := Nat.zero_le _

/-- Settles O57: the reference value 1024 is one of the legal N_PIX. -/
theorem resetMeetsTheInvariant : Obligations.ResetMeetsTheInvariant := by
  unfold Obligations.ResetMeetsTheInvariant
  exact ⟨resetWith_inv (by decide) _ _ _, fun n e g ts hn => resetWith_inv hn e g ts⟩

/-! ## The invariant -/

/-- The parts of the state that the invariant speaks of. -/
def State.invFields (s : State) : Nat × Memory × Bool × Tables × Word × Word × Word :=
  (s.nPix, s.pixMem, s.tv, s.tables, s.resY, s.resCb, s.resCr)

/-- The invariant carries over to a state that agrees on what it speaks of. -/
theorem State.Inv.congr {s t : State} (hs : s.Inv) (h : t.invFields = s.invFields) : t.Inv := by
  simp only [State.invFields, Prod.mk.injEq] at h
  obtain ⟨hn, hm, htv, ht, hy, hcb, hcr⟩ := h
  exact ⟨hn ▸ hs.nPix, hm ▸ hs.memory, hm ▸ hn ▸ hs.inside, htv ▸ ht ▸ hs.tables, hy ▸ hs.resY,
    hcb ▸ hs.resCb, hcr ▸ hs.resCr⟩

section invariant

variable {s : State} (hs : s.Inv)
include hs

/-- BUILD leaves the tables that the invariant asks for (spec/10_state.md R34). -/
theorem setTables_inv : (s.setTables builtTables).Inv :=
  { hs with tables := fun _ => rfl }

theorem setResY_inv {y : Word} (hy : InRange y) : (s.setResY y).Inv := { hs with resY := hy }

theorem setResC_inv {cb cr : Word} (hcb : InRange cb) (hcr : InRange cr) :
    (s.setResC cb cr).Inv := { hs with resCb := hcb, resCr := hcr }

/-- A write inside the pixel memory keeps its form and bound (spec/10_state.md R36). -/
theorem memWrite_inv {a w : Nat} (v : Nat) (ha : a + w ≤ 3 * s.nPix) : (s.memWrite a w v).Inv :=
  { hs with
    memory := Memory.write_wf a w v hs.memory
    inside := Memory.write_inside v hs.inside ha }

/-- Where TV = 1 the tables are the built ones, so a conversion's results are in [0,255]
(spec/41_pixel_converter.md R151). -/
theorem commandEffect_inv {i : Instr} (hi : i = .nop ∨ i = .build ∨ s.tv = true) :
    (commandEffect i s).Inv := by
  have built : i ≠ .nop → i ≠ .build → s.tables = builtTables := fun hnop hbuild =>
    hs.tables ((hi.resolve_left hnop).resolve_left hbuild)
  cases i with
  | nop => exact hs
  | build => exact setTables_inv hs
  | pxy =>
    rw [commandEffect, built nofun nofun]
    exact setResY_inv hs (yOf_inRange _)
  | pxc =>
    rw [commandEffect, built nofun nofun]
    exact setResC_inv hs (cbOf_inRange _) (crOf_inRange _)
  | pxycc =>
    rw [commandEffect, built nofun nofun]
    exact setResC_inv (setResY_inv hs (yOf_inRange _)) (cbOf_inRange _) (crOf_inRange _)
  | cvt444 => exact hs.congr rfl
  | cvt420 h => exact hs.congr rfl

theorem exec_inv {i : Instr} {t : State} (h : exec i s = .next t) : t.Inv := by
  rcases exec_cases i s with ⟨he, hi⟩ | ⟨c, -, -, -, -, he⟩
  · cases he.symm.trans h
    exact (commandEffect_inv hs hi).congr rfl
  · cases he.symm.trans h
    exact hs.congr rfl

theorem engineTurn_inv {t : State} (h : engineTurn s = .next t) : t.Inv := by
  rcases engineTurn_cases s with ⟨-, he⟩ | ⟨i, -, -, he⟩ | ⟨e, -, -, he⟩
  · cases he.symm.trans h
    exact hs
  · exact exec_inv hs (he.symm.trans h)
  · cases he.symm.trans h
    exact hs.congr rfl

theorem afterAccess_inv (x : Access) : (s.afterAccess x).Inv := by
  rcases afterAccess_cases s x with h | ⟨v, -, -, h⟩ | ⟨v, -, -, h⟩ | ⟨v, -, h⟩ | ⟨v, -, h⟩ |
    ⟨v, -, h⟩ | ⟨a, w, v, -, ha, h⟩ <;> rw [h]
  case inr.inr.inr.inr.inr.inr => exact memWrite_inv hs v ha
  all_goals exact hs.congr rfl

theorem hostTurn_inv : s.hostTurn.Inv := by
  rcases hostTurn_cases s with ⟨-, h⟩ | ⟨m, t, -, h⟩ | ⟨x, -, h⟩ <;> rw [h]
  · exact hs
  · exact hs.congr rfl
  · exact (afterAccess_inv hs x).congr rfl

end invariant

/-- Settles O58: each of the three kinds of step keeps the invariant. -/
theorem everyStepKeepsTheInvariant : Obligations.EveryStepKeepsTheInvariant := by
  unfold Obligations.EveryStepKeepsTheInvariant
  intro s t hs h
  obtain ⟨ts, hk⟩ := step_cases s
  have hts : (s.setTurns ts).Inv := hs.congr rfl
  rcases hk with ⟨hk, -⟩ | ⟨hk, -⟩ | ⟨hk, -⟩
  · cases hk.symm.trans h
    exact hostTurn_inv hts
  · exact engineTurn_inv hts (hk.symm.trans h)
  · cases hk.symm.trans h
    exact resetWith_inv hts.nPix _ _ _

end Sys2Proof.Machine
end

section
/-!
PROOFS. The conversions (spec/41_pixel_converter.md, spec/42_full_resolution.md,
spec/43_subsampled.md): the accuracy of the samples, the results of the single-pixel commands, and
the words that the block commands write.
-/

namespace Sys2Proof

/-- The number of the other half. -/
theorem Half.exists_ne_toNat (h : Half) : ∃ h', h' ≠ h ∧ h'.toNat = 1 - h.toNat := by
  cases h with
  | upper => exact ⟨.lower, nofun, rfl⟩
  | lower => exact ⟨.upper, nofun, rfl⟩

end Sys2Proof

namespace Sys2Proof.Machine

/-! ## Accuracy -/

section accuracy

variable (p : Pixel)

/-- The luma coefficients are each within 1/2 of 65536 times their decimals, so a luma accumulator
is close to 65536 times the reference (spec/41_pixel_converter.md R158). -/
theorem yOf_near_refY :
    (builtTables.yOf p).toNat - refY p ≤ 1 ∧ refY p - (builtTables.yOf p).toNat ≤ 1 := by
  have := p.r.isLt; have := p.g.isLt; have := p.b.isLt
  rw [yOf_closedForm, refY]
  omega

theorem cbOf_near_refCb :
    (builtTables.cbOf p).toNat - refCb p ≤ 1 ∧ refCb p - (builtTables.cbOf p).toNat ≤ 1 := by
  have := p.r.isLt; have := p.g.isLt; have := p.b.isLt
  rw [cbOf_closedForm, refCb]
  omega

theorem crOf_near_refCr :
    (builtTables.crOf p).toNat - refCr p ≤ 1 ∧ refCr p - (builtTables.crOf p).toNat ≤ 1 := by
  have := p.r.isLt; have := p.g.isLt; have := p.b.isLt
  rw [crOf_closedForm, refCr]
  omega

end accuracy

/-- Settles O18: the closed form of each sample is near its reference. -/
theorem accuracyWithinOne : Obligations.AccuracyWithinOne := by
  unfold Obligations.AccuracyWithinOne
  exact fun p => ⟨yOf_near_refY p, cbOf_near_refCb p, crOf_near_refCr p⟩

/-! ## The single-pixel commands -/

section samples

variable (t : Tables) (p : Pixel)

theorem yOf_eq_ofInt_div : t.yOf p = BitVec.ofInt 32 (t.accY p / 65536) := by
  rw [Tables.yOf, shift_scaleBits, sample]

theorem cbOf_eq_ofInt_div : t.cbOf p = BitVec.ofInt 32 (t.accCb p / 65536) := by
  rw [Tables.cbOf, shift_scaleBits, sample]

theorem crOf_eq_ofInt_div : t.crOf p = BitVec.ofInt 32 (t.accCr p / 65536) := by
  rw [Tables.crOf, shift_scaleBits, sample]

end samples

section singlePixel

variable {s : State} (htv : s.tv = true)
include htv

theorem exec_pxy_built :
    exec .pxy s = .next ((s.setResY (s.tables.yOf s.pixin)).complete .ok) :=
  convertPixel_built _ htv

theorem exec_pxc_built :
    exec .pxc s =
      .next ((s.setResC (s.tables.cbOf s.pixin) (s.tables.crOf s.pixin)).complete .ok) :=
  convertPixel_built _ htv

theorem exec_pxycc_built :
    exec .pxycc s = .next (((s.setResY (s.tables.yOf s.pixin)).setResC
      (s.tables.cbOf s.pixin) (s.tables.crOf s.pixin)).complete .ok) :=
  convertPixel_built _ htv

end singlePixel

/-- Settles O12: PXY writes the luma of PIXIN, which is the shifted sum. -/
theorem pxyWritesLuma : Obligations.PxyWritesLuma := by
  unfold Obligations.PxyWritesLuma
  intro s htv
  rw [exec_pxy_built htv, yOf_eq_ofInt_div]
  rfl

/-- Settles O13: PXC writes the chroma of PIXIN, which is the two shifted sums. -/
theorem pxcWritesChroma : Obligations.PxcWritesChroma := by
  unfold Obligations.PxcWritesChroma
  intro s htv
  rw [exec_pxc_built htv, cbOf_eq_ofInt_div, crOf_eq_ofInt_div]
  rfl

/-- Settles O14: PXYCC writes what PXY writes and what PXC writes. -/
theorem pxyccCombinesPxyAndPxc : Obligations.PxyccCombinesPxyAndPxc := by
  unfold Obligations.PxyccCombinesPxyAndPxc
  exact fun s htv =>
    ⟨_, _, _, exec_pxycc_built htv, exec_pxy_built htv, exec_pxc_built htv, rfl⟩

/-! ## The block commands -/

/-- CVT444 on a region inside the pixel memory writes its samples
(spec/42_full_resolution.md R170). -/
theorem exec_cvt444_inside {s : State} (htv : s.tv = true)
    (hb : s.pixBase.toNat + 7 * s.pixStride.toNat + 7 < s.nPix) :
    exec .cvt444 s = .next ((s.setBufs s.fullBuffers).complete .ok) :=
  convertBlock_inside _ htv (by omega)

/-- With TV = 1 a block outside the pixel memory raises BOUNDS (spec/60_exceptions.md R215). -/
theorem convertBlock_outside {s : State} {wd : Nat} (u : State) (htv : s.tv = true)
    (hout : s.inBounds wd = false) : s.convertBlock wd u = .next (s.complete .bounds) := by
  simp [State.convertBlock, htv, hout, State.raise]

/-- A command that completes with OK has performed its operation, and a conversion that does has
TV = 1 (spec/60_exceptions.md R212, R214). -/
theorem eq_of_exec_ok {i : Instr} {s t : State} (h : exec i s = .next t) (herr : t.err = .ok) :
    t = (commandEffect i s).complete .ok ∧ (i = .nop ∨ i = .build ∨ s.tv = true) := by
  rcases exec_cases i s with ⟨he, hi⟩ | ⟨c, hc, -, -, -, he⟩
  · cases he.symm.trans h
    exact ⟨rfl, hi⟩
  · cases he.symm.trans h
    exact absurd herr hc

/-- The sample of a written pixel of the block stands at its row and column
(spec/42_full_resolution.md R171). -/
theorem convertGrid_getElem? {s : State} {k r c : Nat} {f : Pixel → Word} {p : Pixel} (hr : r < 8)
    (hc : c < 8) (hp : s.pixel? (s.pixBase.toNat + r * s.pixStride.toNat + c) = some p) :
    (s.convertGrid k f)[8 * r + c]? = some (f p) := by
  have hrow : (8 * r + c) / 8 = r := by omega
  have hcol : (8 * r + c) % 8 = c := by omega
  have hblock : s.blockPixel? r c = some p := hp
  rw [Vector.getElem?_eq_getElem (by omega), State.convertGrid, tabulateBuffer_getElem]
  simp only [hrow, hcol, hblock, sampleFor_some]

/-- The three words that CVT444 writes for a written pixel (spec/42_full_resolution.md R170). -/
theorem fullBuffers_getElem? {s : State} {r c : Nat} {p : Pixel} (hr : r < 8) (hc : c < 8)
    (hp : s.pixel? (s.pixBase.toNat + r * s.pixStride.toNat + c) = some p) :
    s.fullBuffers.yb0[8 * r + c]? = some (s.tables.yOf p) ∧
    s.fullBuffers.cb[8 * r + c]? = some (s.tables.cbOf p) ∧
    s.fullBuffers.cr[8 * r + c]? = some (s.tables.crOf p) :=
  ⟨convertGrid_getElem? hr hc hp, convertGrid_getElem? hr hc hp, convertGrid_getElem? hr hc hp⟩

/-- Settles O19: CVT444 leaves its grids of samples in YB0, CB and CR. -/
theorem cvt444ConvertsEveryPixel : Obligations.Cvt444ConvertsEveryPixel := by
  unfold Obligations.Cvt444ConvertsEveryPixel
  intro s htv hb
  exact ⟨_, exec_cvt444_inside htv hb, rfl, fun r c hr hc p hp => fullBuffers_getElem? hr hc hp⟩

/-- Settles O20: in either state the words are the conversions of the same pixel over the same
tables. -/
theorem cvt444SampleSeesOnlyItsPixel : Obligations.Cvt444SampleSeesOnlyItsPixel := by
  unfold Obligations.Cvt444SampleSeesOnlyItsPixel
  intro s t s' t' hs ht hserr hterr htables r c hr hc p hsp htp
  obtain ⟨rfl, -⟩ := eq_of_exec_ok hs hserr
  obtain ⟨rfl, -⟩ := eq_of_exec_ok ht hterr
  obtain ⟨hsy, hscb, hscr⟩ := fullBuffers_getElem? hr hc hsp
  obtain ⟨hty, htcb, htcr⟩ := fullBuffers_getElem? hr hc htp
  rw [← htables] at hty htcb htcr
  exact ⟨hsy.trans hty.symm, hscb.trans htcb.symm, hscr.trans htcr.symm⟩

/-- Settles O21: CVT420 h converts its region as half h, and keeps the luma buffers and the chroma
rows of the other half. -/
theorem cvt420PlacesLumaAtFullResolution : Obligations.Cvt420PlacesLumaAtFullResolution := by
  unfold Obligations.Cvt420PlacesLumaAtFullResolution
  intro s h htv hb
  obtain ⟨h', hne, hnum⟩ := Half.exists_ne_toNat h
  rw [← hnum]
  refine ⟨_, exec_cvt420_inside htv hb, rfl, fun r c hr hc p hp => ?_,
    subsampledBuffers_luma_of_ne (k := 0) hne (by decide),
    subsampledBuffers_luma_of_ne (k := 1) hne (by decide), fun n hn hm =>
    ⟨chromaRows_getElem?_of_not_mem hn hm, chromaRows_getElem?_of_not_mem hn hm⟩⟩
  exact (holdsHalf_subsampledBuffers s h).luma r c p hr hc hp

/-! ## The range of the samples -/

/-- The words of a tabulated buffer are in [0,255] if the tabulated values are. -/
theorem tabulateBuffer_inRange {f : Fin 64 → Word} {n : Nat} {v : Word} (hf : ∀ i, InRange (f i))
    (hv : (tabulateBuffer f)[n]? = some v) : InRange v := by
  obtain ⟨hn, rfl⟩ := Vector.getElem?_eq_some_iff.mp hv
  rw [tabulateBuffer_getElem]
  exact hf _

section range

variable {s : State} {k n : Nat} {v : Word}

/-- Every word of a grid of samples is in [0,255], written pixels or not
(spec/70_reset_and_hazards.md R243). -/
theorem convertGrid_inRange {f : Pixel → Word} (hf : ∀ p, InRange (f p))
    (hv : (s.convertGrid k f)[n]? = some v) : InRange v :=
  tabulateBuffer_inRange (fun i => sampleFor_inRange s k i hf _) hv

/-- Every word of a luma block is in [0,255], written pixels or not. -/
theorem lumaBlock_inRange {col : Nat} (hy : ∀ p, InRange (s.tables.yOf p))
    (hv : (s.lumaBlock k col)[n]? = some v) : InRange v :=
  tabulateBuffer_inRange (fun i => sampleFor_inRange s k i hy _) hv

/-- Every converted word of a chroma buffer is in [0,255], written pixels or not. -/
theorem chromaRows_inRange {f : Pixel → Word} {h : Half} {b : Buffer} (hf : ∀ p, InRange (f p))
    (hm : 32 * h.toNat ≤ n ∧ n < 32 * h.toNat + 32)
    (hv : (s.chromaRows h k f b)[n]? = some v) : InRange v := by
  obtain ⟨hn, rfl⟩ := Vector.getElem?_eq_some_iff.mp hv
  rw [State.chromaRows, setRows_of_mem _ _ _ _ _ hm]
  exact sampleFor_inRange s k n hf _

end range

/-- In a state of the invariant with TV = 1 every conversion is in [0,255]
(spec/41_pixel_converter.md R151). -/
theorem conversions_inRange {s : State} (hs : s.Inv) (htv : s.tv = true) :
    (∀ p, InRange (s.tables.yOf p)) ∧ (∀ p, InRange (s.tables.cbOf p)) ∧
      ∀ p, InRange (s.tables.crOf p) := by
  rw [hs.tables htv]
  exact ⟨yOf_inRange, cbOf_inRange, crOf_inRange⟩

/-- Settles O24: a block command that completes with OK had TV = 1, so its conversions, like its
free samples, are in [0,255]. -/
theorem blockSamplesAreInRange : Obligations.BlockSamplesAreInRange := by
  unfold Obligations.BlockSamplesAreInRange
  refine fun s t hs => ⟨fun h herr n _ v hv => ?_, fun half h herr => ?_⟩
  · obtain ⟨rfl, hi⟩ := eq_of_exec_ok h herr
    obtain ⟨hy, hcb, hcr⟩ := conversions_inRange hs (by simpa using hi)
    rcases hv with hv | hv | hv
    · exact convertGrid_inRange hy hv
    · exact convertGrid_inRange hcb hv
    · exact convertGrid_inRange hcr hv
  · obtain ⟨rfl, hi⟩ := eq_of_exec_ok h herr
    obtain ⟨hy, hcb, hcr⟩ := conversions_inRange hs (by simpa using hi)
    refine ⟨fun k n hk _ v hv => ?_, fun n hlow hhigh v hv => ?_⟩
    · have hluma := subsampledBuffers_luma (s := s) (h := half) hk
      exact lumaBlock_inRange hy (hluma ▸ hv)
    · rcases hv with hv | hv
      · exact chromaRows_inRange hcb ⟨hlow, hhigh⟩ hv
      · exact chromaRows_inRange hcr ⟨hlow, hhigh⟩ hv

end Sys2Proof.Machine
end

section
/-!
PROOFS. The values of the window (spec/10_state.md section 2, spec/20_memory.md sections 2 and 3):
STATUS, the result registers, the output buffers and the bytes of the pixel memory.
-/

namespace Sys2Proof.Machine

/-! ## STATUS and the result registers -/

theorem flagBit_toNat (b : Bool) : (flagBit b).toNat = b.toNat := by cases b <;> rfl

/-- STATUS is the sum of its fields, each at its own weight (spec/10_state.md R25). -/
theorem statusWord_toNat (s : State) :
    s.statusWord.toNat =
      s.busy.toNat + 2 * s.tv.toNat + 4 * s.ovr.toNat + 16 * s.err.bits.toNat := by
  simp only [State.statusWord, toNat_append_eq_add, flagBit_toNat, BitVec.toNat_ofNat]
  omega

/-- Settles O39: a read of STATUS is accepted in every state, and ERR has one of four codes. -/
theorem statusReadsItsFields : Obligations.StatusReadsItsFields := by
  unfold Obligations.StatusReadsItsFields
  refine fun s => ⟨s.statusWord, respond_status s, (statusWord_toNat s).trans ?_⟩
  cases s.err <;> rfl

/-- Settles O41: each result register is read at its own offset. -/
theorem resultRegistersReadBack : Obligations.ResultRegistersReadBack := by
  unfold Obligations.ResultRegistersReadBack
  exact fun s hb => ⟨respond_reg_read hb (by decide) (by decide),
    respond_reg_read hb (by decide) (by decide), respond_reg_read hb (by decide) (by decide)⟩

/-! ## The output buffers -/

/-- Word n of output buffer k is at 0x0400 + 0x100·k + 4·n (spec/20_memory.md R69). -/
theorem placeAt_buffer (s : State) (x : Access) {k n : Nat}
    (ho : x.offset.toNat = 0x0400 + 0x100 * k + 4 * n) (hk : k < 6) (hn : n < 64) :
    s.placeAt x = .buffer (bufOfNumber k) ⟨n, hn⟩ := by
  have hnum : (x.offset.toNat - 0x0400) / 0x100 = k := by omega
  have hword : x.offset.toNat % 0x100 / 4 = n := by omega
  rw [State.placeAt, placeOf_buffer (by omega) (by omega)]
  simp only [hnum, hword]

/-- The output buffers in the order of spec/20_memory.md R69. -/
theorem get_bufOfNumber {bs : Buffers} {k : Nat} {b : Buffer}
    (h : [bs.yb0, bs.yb1, bs.yb2, bs.yb3, bs.cb, bs.cr][k]? = some b) :
    k < 6 ∧ bs.get (bufOfNumber k) = b := by
  obtain ⟨hk, hb⟩ := List.getElem?_eq_some_iff.mp h
  change k < 6 at hk
  refine ⟨hk, hb ▸ ?_⟩
  interval_cases k <;> rfl

/-- Settles O45: the offset names word n of buffer k, and a buffer accepts word reads only. -/
theorem buffersReadAtTheirOffsets : Obligations.BuffersReadAtTheirOffsets := by
  unfold Obligations.BuffersReadAtTheirOffsets
  intro s k n o b v hb ho hn hbuf hv
  obtain ⟨hk, hget⟩ := get_bufOfNumber hbuf
  obtain ⟨_, hword⟩ := Vector.getElem?_eq_some_iff.mp hv
  obtain ⟨hlow, hhigh⟩ : 0x0400 ≤ o.toNat ∧ o.toNat < 0x0A00 := by omega
  refine ⟨?_, fun d => ?_⟩
  · have haligned : o.toNat % 4 = 0 := by omega
    have hc : s.busCause (.read o 4) = none :=
      (buffer_accepted_iff (x := .read o 4) hlow hhigh).mpr ⟨rfl, haligned, rfl, hb⟩
    rw [respond_read hc, placeAt_buffer s (.read o 4) ho hk hn, State.readPlace]
    simp only [hget, hword]
  · rw [respond_eq_buserr_iff, buffer_accepted_iff (x := .write o 4 d) hlow hhigh]
    rintro ⟨-, -, hread, -⟩
    cases hread

/-! ## The pixel memory -/

section pixels

variable {s : State} {p w : Nat} {o : Offset} (hb : s.busy = false)
  (hn : Config.LegalNPix s.nPix) (hw : w = 1 ∨ w = 2 ∨ w = 4) (ha : p % w = 0)
  (hp : p < 3 * s.nPix) (ho : o.toNat = 0x4000 + p)
include hb hn hw ha hp ho

/-- An aligned read of the pixel memory while BUSY = 0 returns its w bytes (spec/20_memory.md R65).
-/
theorem respond_pixels_read :
    ∃ v : Word, s.respond (.read o w) = .data v ∧ v.toNat = s.memRead p w := by
  obtain ⟨hplace, hc⟩ := pixels_accepted (x := .read o w) hb hn hw ha hp ho
  refine ⟨BitVec.ofNat 32 (s.memRead p w), ?_, ?_⟩
  · rw [respond_read hc, hplace, State.readPlace]
  · have hfits : 256 ^ w ≤ 2 ^ 32 := by rcases hw with rfl | rfl | rfl <;> decide
    rw [BitVec.toNat_ofNat, Nat.mod_eq_of_lt ((s.memRead_lt p w).trans_le hfits)]

/-- An aligned write of the pixel memory while BUSY = 0 stores its w bytes (spec/20_memory.md R65).
-/
theorem pixels_write (d : Word) :
    s.respond (.write o w d) = .ok ∧ s.afterAccess (.write o w d) = s.memWrite p w d.toNat := by
  obtain ⟨hplace, hc⟩ := pixels_accepted (x := .write o w d) hb hn hw ha hp ho
  refine ⟨respond_write hc, ?_⟩
  rw [afterAccess_write hc, hplace, State.writePlace]

end pixels

/-- Settles O42: byte k of a read and of a write is the byte at p + k. -/
theorem pixelMemoryIsLittleEndian : Obligations.PixelMemoryIsLittleEndian := by
  unfold Obligations.PixelMemoryIsLittleEndian
  intro s p w o hb hn hw ha hp ho
  refine ⟨?_, fun d => ?_⟩
  · obtain ⟨v, hread, hv⟩ := respond_pixels_read hb hn hw ha hp ho
    exact ⟨v, hread, hv ▸ s.memRead_lt p w, fun k hk => hv ▸ s.memRead_digit p hk⟩
  · obtain ⟨hok, hwrite⟩ := pixels_write hb hn hw ha hp ho d
    refine ⟨hok, fun k hk => ?_⟩
    rw [hwrite, s.memWrite_byteAt_of_inside p _ hk, BitVec.toNat_ofNat]

/-- Settles O43: a write stores its w bytes and no other, and a read then assembles them again. -/
theorem pixelWriteChangesOnlyItsBytes : Obligations.PixelWriteChangesOnlyItsBytes := by
  unfold Obligations.PixelWriteChangesOnlyItsBytes
  intro s t p w o d hb hn hw ha hp ho ht
  obtain ⟨-, hwrite⟩ := pixels_write hb hn hw ha hp ho d
  obtain rfl := ht.trans hwrite
  refine ⟨rfl, fun x hx =>
    ⟨s.memWrite_byte?_of_outside _ hx, s.memWrite_byteAt_of_outside _ hx⟩,
    fun k hk => s.memWrite_byte?_of_inside p _ hk, ?_⟩
  obtain ⟨v, hread, hv⟩ :=
    respond_pixels_read (s := s.memWrite p w d.toNat) hb hn hw ha hp ho
  exact ⟨v, hread, hv.trans (s.memRead_memWrite p w d.toNat)⟩

end Sys2Proof.Machine
end

section
/-!
PROOFS. The two agents (spec/20_memory.md sections 4 and 5, spec/70_reset_and_hazards.md section 3):
the lines of the host's program one by one, and the host's lines while a command is in flight.
-/

namespace Sys2Proof.Machine

/-! ## One line of the host's program -/

section lines

variable {s : State} {ts : List Turn}

theorem hostTurn_access {x : Access} (h : s.host.line? = some (.access x)) :
    s.hostTurn = (s.afterAccess x).setHost (s.host.answered (s.respond x)) := by
  simp [State.hostTurn, h]

theorem hostTurn_bnz {mask : Word} {target : Nat} (h : s.host.line? = some (.bnz mask target)) :
    s.hostTurn = s.setHost (s.host.branch mask target) := by
  simp [State.hostTurn, h]

/-- A read line changes the host alone. -/
theorem step_read {a : Offset} {w : Nat} (hts : s.turns = .host :: ts)
    (h : s.host.line? = some (.access (.read a w))) :
    step s = .next ((s.setTurns ts).setHost (s.host.answered (s.respond (.read a w)))) := by
  rw [step_of_host_listed hts, hostTurn_access (s := s.setTurns ts) h, afterAccess_read,
    respond_setTurns, State.setTurns_host]

/-- A branch line changes the host alone. -/
theorem step_bnz {mask : Word} {target : Nat} (hts : s.turns = .host :: ts)
    (h : s.host.line? = some (.bnz mask target)) :
    step s = .next ((s.setTurns ts).setHost (s.host.branch mask target)) := by
  rw [step_of_host_listed hts, hostTurn_bnz (s := s.setTurns ts) h, State.setTurns_host]

end lines

/-- Settles O34: the host notes the BUSERR, and the access changes nothing. -/
theorem busErrorLineChangesOnlyTheHost : Obligations.BusErrorLineChangesOnlyTheHost := by
  unfold Obligations.BusErrorLineChangesOnlyTheHost
  intro s x hline hbus
  rw [hostTurn_access hline, afterAccess_of_buserr hbus, hbus]
  rfl

/-- (v AND mask) is not 0 when some bit is 1 in both. -/
theorem and_ne_zero_of_common_bit {v mask : Word} {k : Nat} (hv : v.getLsbD k = true)
    (hm : mask.getLsbD k = true) : v &&& mask ≠ 0 := by
  intro h
  have hbit := congrArg (fun x => BitVec.getLsbD x k) h
  simp [hv, hm] at hbit

/-- (v AND mask) is 0 when no bit is 1 in both. -/
theorem and_eq_zero_of_no_common_bit {v mask : Word}
    (h : ∀ k, v.getLsbD k = true → mask.getLsbD k = false) : v &&& mask = 0 := by
  apply BitVec.eq_of_getLsbD_eq
  intro k _
  cases hv : v.getLsbD k with
  | true => simp [hv, h k hv]
  | false => simp [hv]

theorem branch_taken {g : HostAgent} {mask : Word} (target : Nat) (h : g.v &&& mask ≠ 0) :
    g.branch mask target = { g with pos := target } := by
  rw [HostAgent.branch, if_pos h]

theorem branch_not_taken {g : HostAgent} {mask : Word} (target : Nat) (h : g.v &&& mask = 0) :
    g.branch mask target = { g with pos := g.pos + 1 } := by
  rw [HostAgent.branch, if_neg (not_not.mpr h)]

/-- Settles O52: a read line notes the value read, and a branch tests the bits common to v and the
mask. -/
theorem branchTestsLastReadValue : Obligations.BranchTestsLastReadValue := by
  unfold Obligations.BranchTestsLastReadValue
  refine fun s ts hts => ⟨fun a w v hline hread => ?_, fun mask target hline =>
    ⟨fun ⟨k, hv, hm⟩ => ?_, fun hnone => ?_⟩⟩
  · rw [step_read hts hline, hread]
    exact ⟨_, rfl, rfl, rfl, rfl, rfl⟩
  · rw [step_bnz hts hline, branch_taken target (and_ne_zero_of_common_bit hv hm)]
    rfl
  · rw [step_bnz hts hline, branch_not_taken target (and_eq_zero_of_no_common_bit hnone)]
    rfl

/-! ## WAIT -/

/-- Masking STATUS with 1 leaves BUSY (spec/10_state.md R25). -/
theorem statusWord_and_one (s : State) :
    s.statusWord &&& 0x1#32 = if s.busy then 0x1#32 else 0x0#32 := by
  apply BitVec.eq_of_toNat_eq
  rw [BitVec.toNat_and, show (0x1#32).toNat = 1 from rfl, Nat.and_one_is_mod, statusWord_toNat]
  cases s.busy <;> simp <;> omega

/-- A run of one step is that step. -/
theorem run_one (s : State) : Sys2Proof.core.run 1 s = step s := by
  obtain ⟨t, ht⟩ := everyStepAnswersNext s
  rw [run_succ 0 ht, ht]
  rfl

/-- A run of two steps is the second step after the first. -/
theorem run_two {s t : State} (h : step s = .next t) : Sys2Proof.core.run 2 s = step t := by
  rw [run_succ 1 h, run_one]

/-- Settles O51: the read makes v the word of STATUS, whose bit 0 is BUSY, and the branch tests that
bit. -/
theorem waitPollsUntilIdle : Obligations.WaitPollsUntilIdle := by
  unfold Obligations.WaitPollsUntilIdle
  intro s ts hts hread hbnz
  have hfirst := step_read hts hread
  rw [respond_status] at hfirst
  have hsecond := step_bnz (s := (s.setTurns (.host :: ts)).setHost
    (s.host.answered (.data s.statusWord))) rfl hbnz
  refine ⟨_, (run_two hfirst).trans hsecond, rfl, ?_⟩
  have hmask := statusWord_and_one s
  cases hb : s.busy with
  | true =>
    have taken : (s.host.answered (.data s.statusWord)).v &&& 0x1#32 ≠ 0 := by
      rw [HostAgent.answered, hmask, hb]
      decide
    have hpos := congrArg HostAgent.pos (branch_taken s.host.pos taken)
    exact hpos
  | false =>
    have notTaken : (s.host.answered (.data s.statusWord)).v &&& 0x1#32 = 0 := by
      rw [HostAgent.answered, hmask, hb]
      rfl
    have hpos := congrArg HostAgent.pos (branch_not_taken s.host.pos notTaken)
    exact hpos

/-! ## A command that the host issues -/

/-- A CMD write while BUSY = 0 accepts its word, and the host notes the OK. -/
theorem step_cmd_write {s : State} {ts : List Turn} {w : Word} (hb : s.busy = false)
    (hts : s.turns = .host :: ts) (h : s.host.line? = some (.access (.write 0x0000 4 w))) :
    step s = .next (((s.setTurns ts).accept w).setHost (s.host.answered .ok)) := by
  rw [step_of_host_listed hts, hostTurn_access (s := s.setTurns ts) h, afterAccess_cmd_write,
    writeCmd_idle (s := s.setTurns ts) w hb, respond_write (busCause_cmd_write _ w),
    State.setTurns_host]

/-- Settles O50: the host's line is a CMD write that the core accepts, and the engine's turn decodes
the word written. -/
theorem hostIssuedCommandRuns : Obligations.HostIssuedCommandRuns := by
  unfold Obligations.HostIssuedCommandRuns
  intro s i ts hb hline hts
  have hfirst := step_cmd_write hb hts hline
  have hsecond := step_of_engine_listed (s := ((s.setTurns (.engine :: ts)).accept
    (encode i)).setHost (s.host.answered .ok)) (ts := ts) rfl
  rw [run_two hfirst, hsecond, engineTurn_of_cur_eq rfl rfl]
  exact congrArg (exec i) rfl

/-! ## The host's lines while BUSY = 1 -/

/-- `s` with another OVR and another host, which are all that a host line changes while BUSY = 1
(spec/20_memory.md R74). -/
def State.withHostSide (o : Bool) (g : HostAgent) (s : State) : State :=
  { s with ovr := o, host := g }

/-- While BUSY = 1 an access changes nothing but OVR (spec/20_memory.md R80). -/
theorem afterAccess_busy {s : State} (hb : s.busy = true) (x : Access) :
    s.afterAccess x = { s with ovr := (s.afterAccess x).ovr } := by
  have notIdle : s.busy ≠ false := by rw [hb]; decide
  rcases afterAccess_cases s x with h | ⟨v, -, -, h⟩ | ⟨v, -, hi, -⟩ | ⟨v, hi, -⟩ | ⟨v, hi, -⟩ |
    ⟨v, hi, -⟩ | ⟨a, w, v, hi, -⟩
  · rw [h]
  · rw [h]; rfl
  all_goals exact absurd hi notIdle

/-- Settles O47: a host line is nothing, a branch, or an access, which changes only OVR. -/
theorem busyHostTurnChangesOnlyOvr : Obligations.BusyHostTurnChangesOnlyOvr := by
  unfold Obligations.BusyHostTurnChangesOnlyOvr
  intro s hb
  rcases hostTurn_cases s with ⟨-, h⟩ | ⟨m, t, -, h⟩ | ⟨x, -, h⟩
  · rw [h]
  · rw [h]; rfl
  · rw [h, afterAccess_busy hb x]; rfl

/-- A host turn while BUSY = 1 leaves the other turns to come, and the rest up to OVR and the host.
-/
theorem step_host_busy {s : State} {ts : List Turn} (hb : s.busy = true)
    (hts : s.turns = .host :: ts) :
    ∃ o g, step s = .next ((s.setTurns ts).withHostSide o g) := by
  rw [step_of_host_listed hts, busyHostTurnChangesOnlyOvr (s.setTurns ts) hb]
  exact ⟨_, _, rfl⟩

section hostSide

variable {s t u : State} {o : Bool} {g : HostAgent}

theorem convertPixel_withHostSide (h : s.convertPixel t = .next u) :
    (s.withHostSide o g).convertPixel (t.withHostSide o g) = .next (u.withHostSide o g) := by
  rcases convertPixel_cases s t with ⟨htv, hx⟩ | ⟨htv, hx⟩ <;> cases hx.symm.trans h
  · exact convertPixel_built _ htv
  · exact convertPixel_notBuilt _ htv

theorem convertBlock_withHostSide {wd : Nat} (h : s.convertBlock wd t = .next u) :
    (s.withHostSide o g).convertBlock wd (t.withHostSide o g) = .next (u.withHostSide o g) := by
  rcases convertBlock_cases wd s t with ⟨htv, hin, hx⟩ | ⟨htv, hin, hx⟩ | ⟨htv, hx⟩ <;>
    cases hx.symm.trans h
  · exact convertBlock_inside _ htv (of_decide_eq_true hin)
  · exact convertBlock_outside _ htv hin
  · exact convertBlock_notBuilt _ htv

theorem exec_withHostSide {i : Instr} (h : exec i s = .next u) :
    exec i (s.withHostSide o g) = .next (u.withHostSide o g) := by
  cases i with
  | nop => cases h; rfl
  | build => cases h; rfl
  | pxy => exact convertPixel_withHostSide h
  | pxc => exact convertPixel_withHostSide h
  | pxycc => exact convertPixel_withHostSide h
  | cvt444 => exact convertBlock_withHostSide h
  | cvt420 half => exact convertBlock_withHostSide h

/-- A completion neither uses nor changes OVR and the host. -/
theorem engineTurn_withHostSide (h : engineTurn s = .next u) :
    engineTurn (s.withHostSide o g) = .next (u.withHostSide o g) := by
  rcases engineTurn_cases s with ⟨hb, he⟩ | ⟨i, hb, hd, he⟩ | ⟨e, hb, hd, he⟩
  · cases he.symm.trans h
    exact engineTurn_idle hb
  · rw [engineTurn_decoded (s := s.withHostSide o g) hb hd]
    exact exec_withHostSide (he.symm.trans h)
  · cases he.symm.trans h
    exact engineTurn_reserved (s := s.withHostSide o g) hb hd

end hostSide

/-- While BUSY = 1 the engine's turn after n host lines leaves what it leaves after none, up to OVR
and the host (spec/20_memory.md R74). -/
theorem run_host_lines_then_engine {s u : State} {n : Nat} {ts : List Turn} (hb : s.busy = true)
    (hts : s.turns = List.replicate n .host ++ .engine :: ts)
    (h : engineTurn (s.setTurns ts) = .next u) :
    ∃ o g, Sys2Proof.core.run (n + 1) s = .next (u.withHostSide o g) := by
  induction n generalizing s u with
  | zero => exact ⟨u.ovr, u.host, (run_one s).trans ((step_of_engine_listed hts).trans h)⟩
  | succ n ih =>
    obtain ⟨o, g, hstep⟩ := step_host_busy hb hts
    obtain ⟨o', g', hrun⟩ :=
      ih (s := (s.setTurns (List.replicate n .host ++ .engine :: ts)).withHostSide o g)
        (u := u.withHostSide o g) hb rfl (engineTurn_withHostSide h)
    exact ⟨o', g', (run_succ (n + 1) hstep).trans hrun⟩

/-- Settles O48: with no host line the engine's turn is the next one. -/
theorem completionIgnoresHostTurns : Obligations.CompletionIgnoresHostTurns := by
  unfold Obligations.CompletionIgnoresHostTurns
  intro s n ts hb hts
  obtain ⟨u, hu⟩ := engineTurn_next (s.setTurns ts)
  obtain ⟨o, g, hrun⟩ := run_host_lines_then_engine hb hts hu
  exact ⟨_, u, hrun, (step_of_engine_listed rfl).trans hu, rfl⟩

/-- One step that leaves BUSY = 0 is within every bound above 0. -/
theorem idle_at_once {s t : State} (n : Nat) (h : step s = .next t) (hidle : t.busy = false) :
    ∃ k, k ≤ n + 1 ∧ ∃ t : State, Sys2Proof.core.run k s = .next t ∧ t.busy = false :=
  ⟨1, Nat.le_add_left 1 n, t, (run_one s).trans h, hidle⟩

/-- A busy core is idle after at most one step more than the turns listed: a host line keeps it busy
and uses up a turn, and the engine's turn and a reset clear BUSY. -/
theorem exists_run_idle {s : State} {ts : List Turn} (hts : s.turns = ts) (hb : s.busy = true) :
    ∃ k, k ≤ ts.length + 1 ∧ ∃ t : State, Sys2Proof.core.run k s = .next t ∧ t.busy = false := by
  induction ts generalizing s with
  | nil =>
    obtain ⟨t, ht⟩ := engineTurn_next s
    exact idle_at_once _ ((step_of_busy_unlisted hts hb).trans ht) (engineTurn_busy ht)
  | cons turn ts ih =>
    cases turn with
    | host =>
      obtain ⟨o, g, hstep⟩ := step_host_busy hb hts
      obtain ⟨k, hk, t, hrun, hidle⟩ := ih (s := (s.setTurns ts).withHostSide o g) rfl hb
      exact ⟨k + 1, Nat.succ_le_succ hk, t, (run_succ k hstep).trans hrun, hidle⟩
    | engine =>
      obtain ⟨t, ht⟩ := engineTurn_next (s.setTurns ts)
      exact idle_at_once _ ((step_of_engine_listed hts).trans ht) (engineTurn_busy ht)
    | reset => exact idle_at_once _ (step_of_reset_listed hts) rfl

/-- Settles O49: the turns are the listed ones. -/
theorem acceptedCommandCompletes : Obligations.AcceptedCommandCompletes := by
  unfold Obligations.AcceptedCommandCompletes
  exact fun s hb => exists_run_idle rfl hb

end Sys2Proof.Machine
end
